-- ==== Sys2Proof/Word.lean ====
section
/-! DEFINITION. The word types of the block (spec/00_scope.md rules R7, R8): register words, bytes of raster memory,
stored coefficients. Signed quantities are two's complement (R8), which is `BitVec.toInt`. -/

namespace Sys2Proof

/-- A 32-bit register word, command word or raster-memory address under computation. -/
abbrev Word := BitVec 32

/-- A byte of raster memory. -/
abbrev Byte := BitVec 8

/-- A stored coefficient, COEF_W = 16 bits (R7, R33). -/
abbrev Coef := BitVec 16

end Sys2Proof
end

