-- ==== Sys2Proof/Syntax.lean ====
section
/-! DEFINITION. The commands of the block, one constructor per row of spec/opcode_table.json (spec/30_encoding.md rules
R100, R101, R113). The operands that travel in registers (descriptors, OFFSET, banks) are state, not operands of the
command word. -/

namespace Sys2Proof

/-- The element types of R103. -/
inductive ElemType where
  | u8 | u16 | u32 | s8 | s16 | s32
deriving DecidableEq, Repr

/-- What the three bits of ETYPE name (R103): six element types and two reserved codes. A reserved code does not make
the word illegal (R102); the command carrying it is refused when it is checked (R221). -/
inductive EType where
  | u8 | u16 | u32 | reserved3 | s8 | s16 | s32 | reserved7
deriving DecidableEq, Repr

/-- The element type a code names, if it names one (R103). -/
def EType.elem? : EType → Option ElemType
  | .u8 => some .u8
  | .u16 => some .u16
  | .u32 => some .u32
  | .reserved3 => none
  | .s8 => some .s8
  | .s16 => some .s16
  | .s32 => some .s32
  | .reserved7 => none

/-- The code of an element type. -/
def ElemType.etype : ElemType → EType
  | .u8 => .u8
  | .u16 => .u16
  | .u32 => .u32
  | .s8 => .s8
  | .s16 => .s16
  | .s32 => .s32

/-- The two coefficient banks (R33, R105). -/
inductive Bank where
  | a | b
deriving DecidableEq, Repr

/-- The commands (R100). `rshift` is the RSHIFT field, 0 to 63 (R106). -/
inductive Instr where
  | nop
  | conv (etype : EType) (ksel : Bank) (rshift : Nat)
  | convsep (etype : EType) (rshift : Nat)
deriving DecidableEq, Repr

end Sys2Proof
end

