-- ==== Sys2Proof/WellFormed.lean ====
section
/-! DEFINITION. Which commands the encoding can carry: RSHIFT is a 6-bit field (spec/30_encoding.md rule R106). The other
operands are well formed by their types; every code of ETYPE, the reserved ones too, is well formed (R102). -/

namespace Sys2Proof

/-- The command has a word of its own: its RSHIFT fits 6 bits (R106). -/
def Instr.wellFormed : Instr → Bool
  | .nop => true
  | .conv _ _ rshift => decide (rshift < 64)
  | .convsep _ rshift => decide (rshift < 64)

end Sys2Proof
end

