-- ==== Sys2Proof/Decode.lean ====
section
/-! DEFINITION. The decoder of the command word (spec/30_encoding.md rules R101 to R107, R113), total, and the encoder
written from the same fields. -/

namespace Sys2Proof

/-- Why a word is ILLEGAL (R102, R107), by name; `wrongLength` is the refusal of a byte list that is not one 32-bit
word (R118). -/
inductive IllegalWord where
  | reservedBits
  | illegalOp
  | convsepWithKsel
  | wrongLength
deriving DecidableEq, Repr

/-- What a word decodes to (R102): a command, or ILLEGAL. -/
inductive Decoded where
  | command (i : Instr)
  | illegal (why : IllegalWord)
deriving DecidableEq, Repr

/-- The command of a decoded word, if it is one. -/
def Decoded.instr? : Decoded → Option Instr
  | .command i => some i
  | .illegal _ => none

/-- The meaning of the ETYPE field (R103). -/
def etypeOfField (f : BitVec 3) : EType :=
  match f.toNat with
  | 0 => .u8
  | 1 => .u16
  | 2 => .u32
  | 3 => .reserved3
  | 4 => .s8
  | 5 => .s16
  | 6 => .s32
  | _ => .reserved7

/-- The ETYPE field of a code (R103). -/
def etypeField : EType → BitVec 3
  | .u8 => 0
  | .u16 => 1
  | .u32 => 2
  | .reserved3 => 3
  | .s8 => 4
  | .s16 => 5
  | .s32 => 6
  | .reserved7 => 7

/-- The bank KSEL names (R105). -/
def bankOfField (f : BitVec 1) : Bank :=
  if f = 0#1 then .a else .b

/-- The KSEL field of a bank (R105). -/
def bankField : Bank → BitVec 1
  | .a => 0
  | .b => 1

/-- OP, bits 3:0 (R101). -/
def opField (w : Word) : BitVec 4 := w.extractLsb' 0 4

/-- ETYPE, bits 6:4 (R101). -/
def etypeBits (w : Word) : BitVec 3 := w.extractLsb' 4 3

/-- KSEL, bit 7 (R101). -/
def kselBit (w : Word) : BitVec 1 := w.extractLsb' 7 1

/-- RSHIFT, bits 13:8 (R101). -/
def rshiftBits (w : Word) : BitVec 6 := w.extractLsb' 8 6

/-- Bits 31:14, reserved (R101). -/
def reservedBits (w : Word) : BitVec 18 := w.extractLsb' 14 18

/-- The decoder, in the order of tests of R102. -/
def decode (w : Word) : Decoded :=
  if reservedBits w ≠ 0#18 then .illegal .reservedBits
  else match (opField w).toNat with
    | 0 => .command .nop
    | 1 => .command (.conv (etypeOfField (etypeBits w)) (bankOfField (kselBit w)) (rshiftBits w).toNat)
    | 2 =>
      if kselBit w ≠ 0#1 then .illegal .convsepWithKsel
      else .command (.convsep (etypeOfField (etypeBits w)) (rshiftBits w).toNat)
    | _ => .illegal .illegalOp

/-- A word assembled from its fields (R101): OP, ETYPE, KSEL, RSHIFT, reserved bits zero. -/
def assembleWord (op : BitVec 4) (etype : BitVec 3) (ksel : BitVec 1) (rshift : BitVec 6) : Word :=
  0#18 ++ rshift ++ ksel ++ etype ++ op

/-- The encoder (R101, R113). NOP has 1024 words; the canonical one is 0 (R108). -/
def encode : Instr → Word
  | .nop => 0#32
  | .conv etype ksel rshift => assembleWord 1 (etypeField etype) (bankField ksel) (BitVec.ofNat 6 rshift)
  | .convsep etype rshift => assembleWord 2 (etypeField etype) 0 (BitVec.ofNat 6 rshift)

/-- The word of four bytes, bits 7:0 at the lowest address: where a platform maps the register window into a
byte-addressed space, "bits 7:0 of a register [map] to the lowest byte address" (spec/20_memory.md rule R76). -/
def wordOfBytes (b0 b1 b2 b3 : Byte) : Word := b3 ++ b2 ++ b1 ++ b0

/-- The decoder on bytes: every command is one 32-bit word (R118), so any other length is refused by name. -/
def decodeBytes : List Byte → Decoded
  | [b0, b1, b2, b3] => decode (wordOfBytes b0 b1 b2 b3)
  | _ => .illegal .wrongLength

/-- The bytes of a word, lowest address first (R76). -/
def bytesOfWord (w : Word) : List Byte :=
  [w.extractLsb' 0 8, w.extractLsb' 8 8, w.extractLsb' 16 8, w.extractLsb' 24 8]

/-- The first command word given as the opcode table numbers its bits: `nbits` bits of `w`, every higher bit 0. -/
def tableWord (nbits w : Nat) : Word := BitVec.ofNat 32 (w % 2 ^ nbits)

/-- What the decoder reads from the table's bits: the word is laid out in bytes and given to `decodeBytes`. A row of
more than 32 bits is no command (R118). -/
def decodeTableWord (nbits w : Nat) : Option Instr :=
  if nbits ≤ 32 then (decodeBytes (bytesOfWord (tableWord nbits w))).instr? else none

end Sys2Proof
end

