-- ==== Sys2Proof/Config.lean ====
section
/-! DEFINITION. What an instance of the block fixes (spec/00_scope.md rule R7), and the free values: constants with no
body that stand wherever the spec gives no value (spec/93_implementation_defined.md). -/

namespace Sys2Proof.Config

/-- The parameters of an instance (R7): "A model should take the parameters marked \"model argument\" as arguments".
They are fields of the state that no step changes. -/
structure Params where
  /-- ACC_W, the accumulator width in bits. -/
  accW : Nat
  /-- IBUF_CAP, the capacity of the intermediate buffer in samples. -/
  ibufCap : Nat
  /-- NLANES, the number of row workers; unobservable (R42, R147). -/
  nlanes : Nat
deriving DecidableEq, Repr

/-- The legal ranges of R7. -/
abbrev Params.Legal (p : Params) : Prop :=
  9 ≤ p.accW ∧ p.accW ≤ 64 ∧ 1 ≤ p.ibufCap ∧ p.ibufCap ≤ 2 ^ 32 - 1 ∧ 1 ≤ p.nlanes

/-- The reference instance of R7. DESIGN CHOICE (log 5): four lanes, a number R7 does not fix. -/
def Params.reference : Params := { accW := 32, ibufCap := 65536, nlanes := 4 }

/-- ID, the ASCII bytes "CNV7" (R23). -/
def idWord : Word := 0x434E5637#32

/-- COEF_W (R7). -/
def coefW : Nat := 16

/-- KMAX, the largest kernel dimension (R7). -/
def kMax : Nat := 15

/-- A free value (log 11, log 12): the byte an UNPREDICTABLE byte of raster memory ends with, for the draw `n` and the
address `a`. Nothing can evaluate it. -/
opaque freeByte (n a : Nat) : Byte

/-- A free value (log 3): the coefficient that entry `e` (bank A 0 to 255, bank B 256 to 511) holds after the hardware
reset of draw `n` (R43, U6). Nothing can evaluate it. -/
opaque freeCoef (n e : Nat) : Coef

end Sys2Proof.Config
end

