-- ==== Sys2Proof/Machine/State.lean ====
section
/-! DEFINITION. The state of the block (spec/10_state.md rules R21 to R44), with its reset values (rule R43), and the
reasons a step can stop. -/

namespace Sys2Proof.Machine

/-- Why the machine stops with a fault. PreconditionViolation is NOT one of these: it is a next state, the sticky FAULT
state of spec/60_exceptions.md rule R230. -/
inductive Fault where
  /-- Raised by a host write to a raster-memory address of 2^32 or more, which does not exist (spec/20_memory.md rule
  R70). Safe: the block itself never forms such an address (R73). -/
  | addressOutsideMemory
deriving DecidableEq, Repr

/-- Why a step has no meaning. -/
inductive Refusal where
  /-- Raised by an arm of exec for a command not modelled yet. Safe. No arm raises it. -/
  | notModelled (mnemonic : String)
  /-- Raised by a register access that is not an aligned 32-bit access inside the 4096-byte window: "The block's
  behaviour for them is not specified; a model refuses them" (spec/43_host_operations.md rule R211). Safe. -/
  | undefinedPortAccess
deriving DecidableEq, Repr

/-- CTRL's stored bits (R26). -/
structure Ctrl where
  ieDone : Bool
  ieErr : Bool
deriving DecidableEq, Repr

/-- STATUS's stored bits (R31). -/
structure Status where
  busy : Bool
  done : Bool
  err : Bool
  cause : BitVec 4
deriving DecidableEq, Repr

/-- A raster descriptor, five registers (R28, R29); SIZE holds W and H, BANDS holds Z. -/
structure Descriptor where
  base : Word
  rstride : Word
  bstride : Word
  w : BitVec 16
  h : BitVec 16
  z : BitVec 16
deriving DecidableEq, Repr

/-- A kernel dimension register's stored bits (R32). -/
structure KDim where
  kw : BitVec 4
  kh : BitVec 4
deriving DecidableEq, Repr

/-- The three passes (R39, R141). -/
inductive Pass where
  /-- the one pass of CONV -/
  | single
  /-- the first pass of CONVSEP -/
  | sep1
  /-- the second pass of CONVSEP -/
  | sep2
deriving DecidableEq, Repr

/-- A lane that holds row `y` (R39): the column `x` of the sample it computes, how many taps of that sample it has
handled (the position (j, i) of R39 in row-major order), and its accumulator ACC (R37). ACC is an ACC_W-bit two's
complement register; `acc` is its value. -/
structure Lane where
  y : Nat
  x : Nat
  tap : Nat
  acc : Int
deriving DecidableEq, Repr

/-- The sequencer state SEQ (R39). `rowsDone` is the set of finished rows, listed in rising order. -/
structure Seq where
  pass : Pass
  z : Nat
  rowsDone : List Nat
  lanes : List Lane
deriving DecidableEq, Repr

/-- What an engine agent does in one step (R39 items 2 to 4, R143): a free lane takes a row, lane number `k` of those
that hold a row goes on with it, or the sequencer closes a finished band. -/
inductive EngineMove where
  | take (y : Nat)
  | lane (k : Nat)
  | sequence
deriving DecidableEq, Repr

/-- What happens next (log 1, log 10). -/
inductive Move where
  /-- A register read of `size` bytes at byte offset `off` (R201, R211). -/
  | rd (off size : Nat)
  /-- A register write of `size` bytes at byte offset `off` (R202, R211). -/
  | wr (off size : Nat) (v : Word)
  /-- The host polls STATUS until BUSY reads 0 (spec/30_encoding.md rule R116, `wait`). -/
  | await
  /-- The host, or another agent, writes a byte of raster memory (R44, spec/20_memory.md rule R88). -/
  | memWrite (a : Nat) (b : Byte)
  /-- The reset input is asserted (spec/70_reset_and_hazards.md rules R250, R251). -/
  | hardwareReset
  /-- The sequencer or a lane takes a step. -/
  | engine (m : EngineMove)
deriving DecidableEq, Repr

/-- THE MODEL'S OWN (log 11): what of spec/20_memory.md rule R88 the running command has met. -/
structure Hazard where
  /-- one of the first three rows of R88's table holds: all of FP(DST, T) ends UNPREDICTABLE -/
  spoiled : Bool
  /-- the bytes of FP(DST, T) that another agent wrote during the run (the fourth row) -/
  touched : List Nat
deriving DecidableEq, Repr

/-- No case of R88 has been met. -/
def Hazard.none : Hazard := { spoiled := false, touched := [] }

/-- The state of the block, of raster memory, and of what happens next. -/
structure State where
  /-- ACC_W, IBUF_CAP, NLANES: the instance's constants, reported by CAP and IBUFCAP (R24, R25). -/
  params : Config.Params
  /-- CTRL (R26). -/
  ctrl : Ctrl
  /-- STATUS (R31). -/
  status : Status
  /-- CMDL, the latched command (R30). -/
  cmdl : BitVec 14
  /-- OFFSET (R27). -/
  offset : Word
  /-- SRC_BASE, SRC_RSTRIDE, SRC_BSTRIDE, SRC_SIZE, SRC_BANDS (R28). -/
  src : Descriptor
  /-- DST_BASE, DST_RSTRIDE, DST_BSTRIDE, DST_SIZE, DST_BANDS (R29). -/
  dst : Descriptor
  /-- KA_DIM (R32). -/
  kaDim : KDim
  /-- KB_DIM (R32). -/
  kbDim : KDim
  /-- KA_COEF[0..255] (R33). -/
  kaCoef : Vector Coef 256
  /-- KB_COEF[0..255] (R33). -/
  kbCoef : Vector Coef 256
  /-- IBUF (R36): entry (z, y, x) under the number (z * H + y) * W + x, in the canonical form of Machine/Memory.lean. -/
  ibuf : List (Nat × BitVec 32)
  /-- SEQ (R39), with each lane's ACC (R37); absent when it is undefined, that is when ES is not RUN. -/
  seq : Option Seq
  /-- MEM, raster memory (R44), in the canonical form of Machine/Memory.lean. -/
  mem : List Host.Cell
  /-- THE MODEL'S OWN (log 11). -/
  hazard : Hazard
  /-- THE MODEL'S OWN (log 17): the word the register port returned at the last register read. -/
  rdata : Word
  /-- THE MODEL'S OWN (log 1): what happens next, oldest first. -/
  moves : List Move
  /-- THE MODEL'S OWN (log 18): the number of the next draw of free values. -/
  freeCount : Nat
deriving DecidableEq, Repr

/-- A descriptor after reset (R28, R43). -/
def Descriptor.zero : Descriptor := { base := 0, rstride := 0, bstride := 0, w := 0, h := 0, z := 0 }

/-- A kernel dimension register after reset (R32, R43). -/
def KDim.zero : KDim := { kw := 0, kh := 0 }

/-- STATUS after reset (R43). -/
def Status.zero : Status := { busy := false, done := false, err := false, cause := 0 }

/-- CTRL after reset (R43). -/
def Ctrl.zero : Ctrl := { ieDone := false, ieErr := false }

/-- The machine right after hardware reset (R43), with nothing to happen next. The banks' zeros (log 2), CMDL (log 7),
IBUF (log 6), raster memory (log 4), the instance (log 5) and the model's own fields are DESIGN CHOICE. -/
def State.reset : State where
  params := Config.Params.reference
  ctrl := Ctrl.zero
  status := Status.zero
  cmdl := 0
  offset := 0
  src := Descriptor.zero
  dst := Descriptor.zero
  kaDim := KDim.zero
  kbDim := KDim.zero
  kaCoef := Vector.replicate 256 0
  kbCoef := Vector.replicate 256 0
  ibuf := []
  seq := none
  mem := []
  hazard := Hazard.none
  rdata := 0
  moves := []
  freeCount := 0

end Sys2Proof.Machine
end

