-- ==== Sys2Proof/Machine/Memory.lean ====
section
/-! DEFINITION. Sparse storage in one canonical form, and raster memory over it (spec/20_memory.md rules R70, R76, R91).
A store lists (index, value) pairs with strictly rising indices; an index that is not listed reads as 0, and no listed
value is 0, so equal stores are equal lists. For raster memory that 0 is a DESIGN CHOICE (log 4): the spec gives memory
no reset value. -/

namespace Sys2Proof.Machine

/-- What an unlisted index reads as (log 4, log 6). -/
def unlisted {w : Nat} : BitVec w := 0#w

/-- The value at an index. -/
def cellGet {w : Nat} : List (Nat × BitVec w) → Nat → BitVec w
  | [], _ => unlisted
  | (k, v) :: rest, a => if k = a then v else cellGet rest a

/-- The store with the value `v` put in front under the index `a`, unless `v` is what an unlisted index reads as. -/
def cellCons {w : Nat} (a : Nat) (v : BitVec w) (rest : List (Nat × BitVec w)) : List (Nat × BitVec w) :=
  if v = unlisted then rest else (a, v) :: rest

/-- The store after writing `v` at the index `a`, in canonical form if it was. -/
def cellSet {w : Nat} : List (Nat × BitVec w) → Nat → BitVec w → List (Nat × BitVec w)
  | [], a, v => cellCons a v []
  | (k, u) :: rest, a, v =>
    if a < k then cellCons a v ((k, u) :: rest)
    else if a = k then cellCons a v rest
    else (k, u) :: cellSet rest a v

/-- The canonical form: every index is above `lo` and below the next, and no value is the unlisted one. -/
def cellsAbove {w : Nat} : Option Nat → List (Nat × BitVec w) → Bool
  | _, [] => true
  | none, (k, v) :: rest => decide (v ≠ unlisted) && cellsAbove (some k) rest
  | some lo, (k, v) :: rest => decide (lo < k) && decide (v ≠ unlisted) && cellsAbove (some k) rest

/-- The canonical form of a store. -/
def cellsWf {w : Nat} (l : List (Nat × BitVec w)) : Bool := cellsAbove none l

/-- The number of bytes of raster memory, ADDR_W = 32 (R70). -/
def memSize : Nat := 2 ^ 32

/-- An address reduced modulo 2^32 (R73, R89). -/
def wrapAddr (a : Nat) : Nat := a % memSize

/-- The canonical form of raster memory: that of a store, and every listed address exists (R70). -/
def Memory.wf (m : List Host.Cell) : Bool := cellsWf m && m.all (fun c => decide (c.1 < memSize))

/-- One byte of raster memory. -/
def readByte (m : List Host.Cell) (a : Nat) : Byte := cellGet m (wrapAddr a)

/-- Raster memory after writing one byte. -/
def writeByte (m : List Host.Cell) (a : Nat) (b : Byte) : List Host.Cell := cellSet m (wrapAddr a) b

/-- MemRead (R76): the `n` bytes from `a` upward, little-endian, as a number below 2^(8n). -/
def memReadNat (m : List Host.Cell) (a : Nat) : Nat → Nat
  | 0 => 0
  | n + 1 => (readByte m a).toNat + 256 * memReadNat m (a + 1) n

/-- MemRead (R76) as a pattern; samples have 1, 2 or 4 bytes (R75). -/
def memRead (m : List Host.Cell) (a n : Nat) : BitVec 32 := BitVec.ofNat 32 (memReadNat m a n)

/-- MemWrite (R76) of the number `p`: bits 7:0 to address `a`, bits 15:8 to `a + 1`, and so on. -/
def memWriteNat (m : List Host.Cell) (a : Nat) : Nat → Nat → List Host.Cell
  | 0, _ => m
  | n + 1, p => memWriteNat (writeByte m a (BitVec.ofNat 8 p)) (a + 1) n (p / 256)

/-- MemWrite (R76) of a pattern. -/
def memWrite (m : List Host.Cell) (a n : Nat) (p : BitVec 32) : List Host.Cell := memWriteNat m a n p.toNat

/-- The addresses of an access of `n` bytes at `a` (R73, R89). -/
def accessBytes (a n : Nat) : List Nat := (List.range n).map (fun b => wrapAddr (a + b))

/-- A list of addresses names one address twice. -/
def hasRepeat : List Nat → Bool
  | [] => false
  | a :: rest => rest.contains a || hasRepeat rest

/-- Raster memory after every listed byte has taken the free value of draw `n` (log 11, log 12). -/
def scramble (n : Nat) (m : List Host.Cell) (addrs : List Nat) : List Host.Cell :=
  addrs.foldl (fun m a => writeByte m a (Config.freeByte n a)) m

end Sys2Proof.Machine
end

