-- ==== Sys2Proof/Machine/Arith.lean ====
section
/-! DEFINITION. The pure helper functions of spec/00_scope.md rules R9 and R11: wrap, narrowing, floor shift, clamp, and
the ranges of the element types (spec/30_encoding.md rule R103) and of the accumulator. -/

namespace Sys2Proof.Machine

/-- wrapS_N: the integer congruent to `v` modulo 2^N that lies in [-2^(N-1), 2^(N-1)) (R9). -/
def wrapS (n : Nat) (v : Int) : Int := Int.bmod v (2 ^ n)

/-- low_N: the N-bit pattern of `v` (R9), zero-extended to the 32 bits of the widest sample. -/
def lowN (n : Nat) (v : Int) : BitVec 32 := BitVec.ofNat 32 (v % (2 ^ n : Nat)).toNat

/-- floor_shr: the right shift that rounds toward minus infinity (R9); Lean's integer division by a positive number is
the floor. -/
def floorShr (v : Int) (n : Nat) : Int := v / (2 ^ n : Nat)

/-- clamp (R9). -/
def clamp (v lo hi : Int) : Int :=
  if v < lo then lo else if hi < v then hi else v

/-- N(T), the width of the stored sample in bits (R11, R103). -/
def elemBits : ElemType → Nat
  | .u8 => 8
  | .u16 => 16
  | .u32 => 32
  | .s8 => 8
  | .s16 => 16
  | .s32 => 32

/-- EB(T), the size of a sample in bytes (R11, R103). -/
def elemBytes (t : ElemType) : Nat := elemBits t / 8

/-- signed(T) (R11, R103). -/
def elemSigned : ElemType → Bool
  | .u8 => false
  | .u16 => false
  | .u32 => false
  | .s8 => true
  | .s16 => true
  | .s32 => true

/-- Tmin(T) (R11). -/
def tMin (t : ElemType) : Int :=
  if elemSigned t then -(2 ^ (elemBits t - 1) : Nat) else 0

/-- Tmax(T) (R11). -/
def tMax (t : ElemType) : Int :=
  if elemSigned t then (2 ^ (elemBits t - 1) : Nat) - 1 else (2 ^ elemBits t : Nat) - 1

/-- ACCmin (R11). -/
def accMin (accW : Nat) : Int := -(2 ^ (accW - 1) : Nat)

/-- ACCmax (R11). -/
def accMax (accW : Nat) : Int := (2 ^ (accW - 1) : Nat) - 1

/-- val_T: the value of a stored pattern (R11), of which only the low N(T) bits count. A signed type is read as two's
complement, an unsigned one as it stands. -/
def valT (t : ElemType) (p : BitVec 32) : Int :=
  if elemSigned t then wrapS (elemBits t) (p.toNat : Int) else ((p.toNat % 2 ^ elemBits t : Nat) : Int)

end Sys2Proof.Machine
end

