-- ==== Sys2Proof/Machine/Quantizer.lean ====
section
/-! DEFINITION. The fixed-point quantizer FPQ (spec/42_fixed_point_quantizer.md), with its two internal signals
(spec/10_state.md rule R40). -/

namespace Sys2Proof.Machine

/-- do_scale (R40, R182). -/
def doScale (rshift : Nat) (offset : Int) : Bool := decide (rshift ≠ 0 ∨ offset ≠ 0)

/-- do_clip: T's range differs from the accumulator's (R40, R184). -/
def doClip (accW : Nat) (t : ElemType) : Bool := decide (tMin t ≠ accMin accW ∨ tMax t ≠ accMax accW)

/-- The scale step: shift first, then the offset, exactly (R182, R183). -/
def fpqScale (sum : Int) (rshift : Nat) (offset : Int) : Int :=
  if doScale rshift offset then floorShr sum rshift + offset else sum

/-- The clip step (R184). -/
def fpqClip (accW : Nat) (t : ElemType) (v : Int) : Int :=
  if doClip accW t then clamp v (tMin t) (tMax t) else v

/-- FPQ: the pattern stored for an accumulator sum (R180, R185). -/
def fpq (accW : Nat) (t : ElemType) (sum : Int) (rshift : Nat) (offset : Int) : BitVec 32 :=
  lowN (elemBits t) (fpqClip accW t (fpqScale sum rshift offset))

end Sys2Proof.Machine
end

