-- ==== Sys2Proof/Machine/Taps.lean ====
section
/-! DEFINITION. Tap geometry, the boundary handler and the multiply-accumulate of one output sample
(spec/40_convolution_engine.md rules R131 to R139). A kernel view is given by its width `kw`, its height `kh` and its
coefficients `coef ky kx`; the input of a pass, in the band in progress, by `inp y x`. -/

namespace Sys2Proof.Machine

/-- pos(d), the open upper end of the tap interval (R132). -/
def tapPos (d : Nat) : Int := ((d / 2 + 1 : Nat) : Int)

/-- neg(d), the lower end of the tap interval (R132). -/
def tapNeg (d : Nat) : Int := tapPos d - (d : Int)

/-- The boundary handler: the tap at offset (i, j) of output sample (x, y) lies inside the raster (R135). -/
def inside (w h x y : Nat) (i j : Int) : Bool :=
  decide (0 ≤ (x : Int) + i) && decide ((x : Int) + i < (w : Int)) &&
    (decide (0 ≤ (y : Int) + j) && decide ((y : Int) + j < (h : Int)))

/-- The horizontal offset of the coefficient in column `kx` (R134). -/
def tapI (kw kx : Nat) : Int := tapNeg kw + (kx : Int)

/-- The vertical offset of the coefficient in row `ky` (R134). -/
def tapJ (kh ky : Nat) : Int := tapNeg kh + (ky : Int)

/-- The product of the tap at kernel position (ky, kx), exact (R134, R137). -/
def tapProduct (kw kh : Nat) (coef inp : Nat → Nat → Int) (x y ky kx : Nat) : Int :=
  coef ky kx * inp ((y : Int) + tapJ kh ky).toNat ((x : Int) + tapI kw kx).toNat

/-- ACC after tap number `t` of a sample, taps numbered row by row: a contributing tap adds its product in ACC_W bits, a
tap outside the raster adds nothing (R135, R138, R139). -/
def tapStep (accW w h kw kh : Nat) (coef inp : Nat → Nat → Int) (x y : Nat) (acc : Int) (t : Nat) : Int :=
  if inside w h x y (tapI kw (t % kw)) (tapJ kh (t / kw)) then
    wrapS accW (acc + tapProduct kw kh coef inp x y (t / kw) (t % kw))
  else acc

/-- TapSum: ACC cleared, then every tap handled (R138). -/
def tapSum (accW w h kw kh : Nat) (coef inp : Nat → Nat → Int) (x y : Nat) : Int :=
  (List.range (kw * kh)).foldl (tapStep accW w h kw kh coef inp x y) 0

/-- The exact sum S of the products of the contributing taps (R138, R142), with no wrap. -/
def exactSum (w h kw kh : Nat) (coef inp : Nat → Nat → Int) (x y : Nat) : Int :=
  ((List.range kh).map fun ky =>
    ((List.range kw).map fun kx =>
      if inside w h x y (tapI kw kx) (tapJ kh ky) then tapProduct kw kh coef inp x y ky kx else 0).sum).sum

end Sys2Proof.Machine
end

