-- ==== Sys2Proof/Machine/Operands.lean ====
section
/-! DEFINITION. Where a command's operands come from: sample addresses and footprints (spec/20_memory.md rules R72 to
R79), the fields of CMDL (spec/10_state.md rule R30), the coefficient banks (R32, R33), IBUF (R36, R91), and the views a
pass takes of them (spec/40_convolution_engine.md rule R141, spec/41_separable_decomposer.md rules R161 to R165). -/

namespace Sys2Proof.Machine

/-- addr(D, T, z, y, x) (R73). -/
def sampleAddr (d : Descriptor) (t : ElemType) (z y x : Nat) : Nat :=
  wrapAddr (d.base.toNat + z * d.bstride.toNat + y * d.rstride.toNat + x * elemBytes t)

/-- The bytes a sample occupies (R73, R89). -/
def sampleBytes (d : Descriptor) (t : ElemType) (z y x : Nat) : List Nat :=
  accessBytes (sampleAddr d t z y x) (elemBytes t)

/-- FP(D, T, Zn), the footprint (R74), sample by sample. -/
def footprint (d : Descriptor) (t : ElemType) (zn : Nat) : List Nat :=
  (List.range zn).flatMap fun z =>
    (List.range d.h.toNat).flatMap fun y =>
      (List.range d.w.toNat).flatMap fun x => sampleBytes d t z y x

/-- LoadSample (R77). -/
def loadSample (m : List Host.Cell) (d : Descriptor) (t : ElemType) (z y x : Nat) : Int :=
  valT t (memRead m (sampleAddr d t z y x) (elemBytes t))

/-- StoreSample (R78). -/
def storeSample (m : List Host.Cell) (d : Descriptor) (t : ElemType) (z y x : Nat) (p : BitVec 32) : List Host.Cell :=
  memWrite m (sampleAddr d t z y x) (elemBytes t) p

/-- The element type CMDL names, if it names one (R30, R103). -/
def cmdType (s : State) : Option ElemType := (etypeOfField (s.cmdl.extractLsb' 4 3)).elem?

/-- CMD.KSEL of the running command (R30, R105). -/
def cmdKsel (s : State) : Bank := bankOfField (s.cmdl.extractLsb' 7 1)

/-- CMD.RSHIFT of the running command (R30, R106). -/
def cmdRshift (s : State) : Nat := (s.cmdl.extractLsb' 8 6).toNat

/-- offset = sext_32(OFFSET) (R27, R111). -/
def offsetVal (s : State) : Int := s.offset.toInt

/-- The dimension register of a bank (R32). -/
def bankDim (s : State) : Bank → KDim
  | .a => s.kaDim
  | .b => s.kbDim

/-- The entries of a bank (R33). -/
def bankEntries (s : State) : Bank → Vector Coef 256
  | .a => s.kaCoef
  | .b => s.kbCoef

/-- The number of the entry at column `kx`, row `ky` (R33); kernel positions are 0 to 15. -/
def entryIndex (ky kx : Nat) : Fin 256 := Fin.ofNat 256 (ky * 16 + kx)

/-- KA[ky][kx] or KB[ky][kx], sign-extended (R33, R110). -/
def bankCoef (s : State) (bank : Bank) (ky kx : Nat) : Int := ((bankEntries s bank)[entryIndex ky kx]).toInt

/-- W of the command (R130): SRC_SIZE.W, which the SHAPE check makes equal to DST_SIZE.W. -/
def rasterW (s : State) : Nat := s.src.w.toNat

/-- H of the command (R130). -/
def rasterH (s : State) : Nat := s.src.h.toNat

/-- Zproc, the number of bands a pass processes (R141). -/
def zproc (s : State) : Pass → Nat
  | .single => s.dst.z.toNat
  | .sep1 => s.src.z.toNat
  | .sep2 => s.dst.z.toNat

/-- The width of a pass's kernel view (R130, R161, R162). -/
def viewW (s : State) : Pass → Nat
  | .single => (bankDim s (cmdKsel s)).kw.toNat
  | .sep1 => s.kaDim.kw.toNat
  | .sep2 => 1

/-- The height of a pass's kernel view (R130, R161, R162). -/
def viewH (s : State) : Pass → Nat
  | .single => (bankDim s (cmdKsel s)).kh.toNat
  | .sep1 => 1
  | .sep2 => s.kbDim.kw.toNat

/-- The coefficients of a pass's kernel view: the selected bank, row 0 of bank A, or row 0 of bank B read as a column
(R130, R161, R162). -/
def viewCoef (s : State) : Pass → Nat → Nat → Int
  | .single, ky, kx => bankCoef s (cmdKsel s) ky kx
  | .sep1, _, kx => bankCoef s .a 0 kx
  | .sep2, ky, _ => bankCoef s .b 0 ky

/-- The scale pair of a pass: pass 1 of CONVSEP does not scale (R164, R165). -/
def passRshift (s : State) : Pass → Nat
  | .single => cmdRshift s
  | .sep1 => 0
  | .sep2 => cmdRshift s

/-- The offset of a pass (R164, R165). -/
def passOffset (s : State) : Pass → Int
  | .single => offsetVal s
  | .sep1 => 0
  | .sep2 => offsetVal s

/-- The number under which State holds entry (z, y, x) of IBUF, which is "indexed, not byte-addressed" (R36, R91). -/
def ibufIndex (s : State) (z y x : Nat) : Nat := (z * rasterH s + y) * rasterW s + x

/-- The value of IBUF[z][y][x] (R91). -/
def ibufSample (s : State) (t : ElemType) (z y x : Nat) : Int := valT t (cellGet s.ibuf (ibufIndex s z y x))

/-- The input of a pass (R130, R164, R165), read afresh at each use (DESIGN CHOICE, log 30). -/
def passIn (s : State) (t : ElemType) : Pass → Nat → Nat → Nat → Int
  | .single, z, y, x => loadSample s.mem s.src t z y x
  | .sep1, z, y, x => loadSample s.mem s.src t z y x
  | .sep2, z, y, x => ibufSample s t z y x

/-- A pass has no sample to compute: W, H or its band count is 0 (R149). -/
def passEmpty (s : State) (p : Pass) : Bool :=
  decide (rasterW s = 0) || decide (rasterH s = 0) || decide (zproc s p = 0)

end Sys2Proof.Machine
end

