-- ==== Sys2Proof/Machine/Flags.lean ====
section
/-! DEFINITION. The block's host-visible flags and constants as register words (spec/10_state.md rules R24 to R26, R31),
the engine state (R38), and the interrupt output (spec/60_exceptions.md rule R234). The internal signals do_scale and
do_clip (R40) are in Machine/Quantizer.lean. There is no arithmetic flag (R40). -/

namespace Sys2Proof.Machine

/-- A flag as one bit. -/
def flagBit (b : Bool) : BitVec 1 := BitVec.ofBool b

/-- STATUS as it is read (R31, R201): BUSY 0, DONE 1, ERR 2, CAUSE 7:4, the other bits 0. -/
def statusWord (st : Status) : Word :=
  0#24 ++ st.cause ++ 0#1 ++ flagBit st.err ++ flagBit st.done ++ flagBit st.busy

/-- CTRL as it is read (R26, R201): IE_DONE 0, IE_ERR 1, the other bits, SRST too, 0. -/
def ctrlWord (c : Ctrl) : Word := 0#30 ++ flagBit c.ieErr ++ flagBit c.ieDone

/-- CAP (R24): ACC_W in 7:0, COEF_W in 15:8, KMAX in 19:16. -/
def capWord (p : Config.Params) : Word :=
  0#12 ++ BitVec.ofNat 4 Config.kMax ++ BitVec.ofNat 8 Config.coefW ++ BitVec.ofNat 8 p.accW

/-- IBUFCAP (R25). -/
def ibufCapWord (p : Config.Params) : Word := BitVec.ofNat 32 p.ibufCap

/-- ES (R38). -/
inductive EngineState where
  | idle | run | fault
deriving DecidableEq, Repr

/-- ES is a function of STATUS (R38). -/
def engineState (st : Status) : EngineState :=
  if st.busy then .run else if st.err then .fault else .idle

/-- The interrupt output (R234). -/
def irq (s : State) : Bool :=
  (s.status.done && s.ctrl.ieDone) || (s.status.err && s.ctrl.ieErr)

/-- The three facts R31 derives about STATUS: never BUSY with ERR, never BUSY with DONE, and CAUSE is 0 exactly when ERR
is 0. -/
def Status.wf (st : Status) : Bool :=
  !(st.busy && st.err) && !(st.busy && st.done) && (st.err == decide (st.cause ≠ 0#4))

end Sys2Proof.Machine
end

