-- ==== Sys2Proof/Machine/Ops.lean ====
section
/-! DEFINITION. The named operations over the registers: the register map and the two accesses of the register port
(spec/10_state.md rules R22 to R34, spec/43_host_operations.md rules R200 to R209), taking the one exception of the block
(spec/60_exceptions.md rule R230), the resets that alone leave it (rule R233, spec/70_reset_and_hazards.md rules R250 to
R252), and laying down free values (spec/20_memory.md rule R88). A write to CMD is in Machine/Port.lean. -/

namespace Sys2Proof.Machine

/-- The registers of the register map (R22). -/
inductive Reg where
  | id | cap | ibufcap | ctrl | status | cmd | offset
  | srcBase | srcRstride | srcBstride | srcSize | srcBands
  | dstBase | dstRstride | dstBstride | dstSize | dstBands
  | kaDim | kbDim
  | kaCoef (n : Fin 256)
  | kbCoef (n : Fin 256)
deriving DecidableEq, Repr

/-- The byte offset of a register (R22, R33). -/
def regOffset : Reg → Nat
  | .id => 0x000
  | .cap => 0x004
  | .ibufcap => 0x008
  | .ctrl => 0x00C
  | .status => 0x010
  | .cmd => 0x014
  | .offset => 0x018
  | .srcBase => 0x020
  | .srcRstride => 0x024
  | .srcBstride => 0x028
  | .srcSize => 0x02C
  | .srcBands => 0x030
  | .dstBase => 0x040
  | .dstRstride => 0x044
  | .dstBstride => 0x048
  | .dstSize => 0x04C
  | .dstBands => 0x050
  | .kaDim => 0x060
  | .kbDim => 0x064
  | .kaCoef n => 0x400 + 4 * n.val
  | .kbCoef n => 0x800 + 4 * n.val

/-- The register at a word offset of the window; none at a reserved offset (R22, R34). -/
def regAt (off : Nat) : Option Reg :=
  match off with
  | 0x000 => some .id
  | 0x004 => some .cap
  | 0x008 => some .ibufcap
  | 0x00C => some .ctrl
  | 0x010 => some .status
  | 0x014 => some .cmd
  | 0x018 => some .offset
  | 0x020 => some .srcBase
  | 0x024 => some .srcRstride
  | 0x028 => some .srcBstride
  | 0x02C => some .srcSize
  | 0x030 => some .srcBands
  | 0x040 => some .dstBase
  | 0x044 => some .dstRstride
  | 0x048 => some .dstBstride
  | 0x04C => some .dstSize
  | 0x050 => some .dstBands
  | 0x060 => some .kaDim
  | 0x064 => some .kbDim
  | _ =>
    if off % 4 ≠ 0 then none
    else if 0x400 ≤ off ∧ off < 0x800 then some (.kaCoef (Fin.ofNat 256 ((off - 0x400) / 4)))
    else if 0x800 ≤ off ∧ off < 0xC00 then some (.kbCoef (Fin.ofNat 256 ((off - 0x800) / 4)))
    else none

/-- A defined access: an aligned 32-bit access inside the window (R22, R211). -/
def definedAccess (off size : Nat) : Bool := size == 4 && off % 4 == 0 && decide (off < 4096)

/-- A SIZE register as a word: W in 15:0, H in 31:16 (R28, R109). -/
def sizeWord (d : Descriptor) : Word := d.h ++ d.w

/-- A BANDS register as a word: Z in 15:0 (R28, R109). -/
def bandsWord (d : Descriptor) : Word := 0#16 ++ d.z

/-- A DIM register as a word: KW in 3:0, KH in 11:8 (R32, R109). -/
def dimWord (k : KDim) : Word := 0#20 ++ k.kh ++ 0#4 ++ k.kw

/-- The bits a DIM register stores of a written word (R32, R202). -/
def dimOfWord (v : Word) : KDim := { kw := v.extractLsb' 0 4, kh := v.extractLsb' 8 4 }

/-- The bits a COEF entry stores of a written word (R33, R110). -/
def coefOfWord (v : Word) : Coef := v.extractLsb' 0 16

/-- A COEF entry as it is read, sign-extended (R33, R110). -/
def coefWord (c : Coef) : Word := c.signExtend 32

/-- The value of a register (R201). -/
def readReg (s : State) : Reg → Word
  | .id => Config.idWord
  | .cap => capWord s.params
  | .ibufcap => ibufCapWord s.params
  | .ctrl => ctrlWord s.ctrl
  | .status => statusWord s.status
  | .cmd => 0
  | .offset => s.offset
  | .srcBase => s.src.base
  | .srcRstride => s.src.rstride
  | .srcBstride => s.src.bstride
  | .srcSize => sizeWord s.src
  | .srcBands => bandsWord s.src
  | .dstBase => s.dst.base
  | .dstRstride => s.dst.rstride
  | .dstBstride => s.dst.bstride
  | .dstSize => sizeWord s.dst
  | .dstBands => bandsWord s.dst
  | .kaDim => dimWord s.kaDim
  | .kbDim => dimWord s.kbDim
  | .kaCoef n => coefWord s.kaCoef[n]
  | .kbCoef n => coefWord s.kbCoef[n]

/-- The word a read at a word offset returns; a reserved offset reads 0 (R34, R201). -/
def readOffset (s : State) (off : Nat) : Word :=
  match regAt off with
  | some r => readReg s r
  | none => 0

/-- The descriptor with a SIZE register written (R202). -/
def Descriptor.withSize (d : Descriptor) (v : Word) : Descriptor :=
  { d with w := v.extractLsb' 0 16, h := v.extractLsb' 16 16 }

/-- The descriptor with a BANDS register written (R202). -/
def Descriptor.withBands (d : Descriptor) (v : Word) : Descriptor := { d with z := v.extractLsb' 0 16 }

/-- Draw free values for the listed bytes of raster memory (log 11, log 12). -/
def unpredict (addrs : List Nat) (s : State) : State :=
  { s with mem := scramble s.freeCount s.mem addrs, freeCount := s.freeCount + 1 }

/-- Every register at its reset value (R43) but the two banks, which hold what is given. The instance's constants,
raster memory, and the model's fields for the host stay. -/
def resetRegisters (ka kb : Vector Coef 256) (s : State) : State where
  params := s.params
  ctrl := Ctrl.zero
  status := Status.zero
  cmdl := 0
  offset := 0
  src := Descriptor.zero
  dst := Descriptor.zero
  kaDim := KDim.zero
  kbDim := KDim.zero
  kaCoef := ka
  kbCoef := kb
  ibuf := []
  seq := none
  mem := s.mem
  hazard := Hazard.none
  rdata := s.rdata
  moves := s.moves
  freeCount := s.freeCount

/-- SoftReset (R252): as hardware reset, "except that the coefficient banks keep their contents". -/
def softReset (s : State) : State := resetRegisters s.kaCoef s.kbCoef s

/-- A bank of free coefficients, stable once drawn (R43, U6; log 3). -/
def freeBank (n start : Nat) : Vector Coef 256 := Vector.ofFn fun e : Fin 256 => Config.freeCoef n (start + e.val)

/-- Raster memory when the reset input is asserted: during a run every byte of FP(DST, T) of the stopped command is
UNPREDICTABLE (R251; log 12); otherwise nothing changes (R250). -/
def stopRun (s : State) : State :=
  if s.status.busy then
    match cmdType s with
    | some t => unpredict (footprint s.dst t s.dst.z.toNat) s
    | none => s
  else s

/-- Hardware reset (R250, R251), with the banks' contents drawn free (log 3). -/
def hardwareReset (s : State) : State :=
  let s1 := stopRun s
  { resetRegisters (freeBank s1.freeCount 0) (freeBank s1.freeCount 256) s1 with freeCount := s1.freeCount + 1 }

/-- A write to CTRL, in any state (R209). -/
def writeCtrl (v : Word) (s : State) : State :=
  if v.getLsbD 31 && !s.status.busy then softReset s
  else { s with ctrl := { ieDone := v.getLsbD 0, ieErr := v.getLsbD 1 } }

/-- A write to STATUS while BUSY is 0: bit 1 clears DONE, the other bits are ignored (R208). -/
def writeStatus (v : Word) (s : State) : State :=
  if v.getLsbD 1 then { s with status := { s.status with done := false } } else s

/-- A write to a register other than CTRL and CMD while BUSY is 0 (R202). Read-only registers ignore it. -/
def writeUnlocked (v : Word) (s : State) : Reg → State
  | .id => s
  | .cap => s
  | .ibufcap => s
  | .ctrl => s
  | .status => writeStatus v s
  | .cmd => s
  | .offset => { s with offset := v }
  | .srcBase => { s with src := { s.src with base := v } }
  | .srcRstride => { s with src := { s.src with rstride := v } }
  | .srcBstride => { s with src := { s.src with bstride := v } }
  | .srcSize => { s with src := s.src.withSize v }
  | .srcBands => { s with src := s.src.withBands v }
  | .dstBase => { s with dst := { s.dst with base := v } }
  | .dstRstride => { s with dst := { s.dst with rstride := v } }
  | .dstBstride => { s with dst := { s.dst with bstride := v } }
  | .dstSize => { s with dst := s.dst.withSize v }
  | .dstBands => { s with dst := s.dst.withBands v }
  | .kaDim => { s with kaDim := dimOfWord v }
  | .kbDim => { s with kbDim := dimOfWord v }
  | .kaCoef n => { s with kaCoef := s.kaCoef.set n (coefOfWord v) }
  | .kbCoef n => { s with kbCoef := s.kbCoef.set n (coefOfWord v) }

/-- A write to a register other than CMD, with the BUSY lock (R202, R203). -/
def writeReg (r : Reg) (v : Word) (s : State) : State :=
  if r = .ctrl then writeCtrl v s
  else if s.status.busy then s
  else writeUnlocked v s r

/-- The causes of PreconditionViolation (R220). -/
inductive Cause where
  | shape | width | not1d | etype | bands | capacity | illegalCmd
deriving DecidableEq, Repr

/-- The code recorded in STATUS.CAUSE (R220). -/
def causeCode : Cause → BitVec 4
  | .shape => 1
  | .width => 2
  | .not1d => 3
  | .etype => 4
  | .bands => 5
  | .capacity => 6
  | .illegalCmd => 7

/-- raise PreconditionViolation(c): the fault entry (R230). ERR is set, CAUSE holds the code, DONE is 0; BUSY stays as it
is, and nothing else changes. The block has no handler and saves nothing; `softReset` and `hardwareReset` are the only
ways out (R233). -/
def raise (c : Cause) (s : State) : State :=
  { s with status := { s.status with err := true, cause := causeCode c, done := false } }

/-- STATUS.DONE <- 0, as a CMD write that decodes to CONV, CONVSEP or ILLEGAL does first (R227). -/
def clearDone (s : State) : State := { s with status := { s.status with done := false } }

/-- A rising list of numbers with `n` among them: the set with `n` added (R39). -/
def insertRising (n : Nat) : List Nat → List Nat
  | [] => [n]
  | m :: rest => if n < m then n :: m :: rest else if n = m then m :: rest else m :: insertRising n rest

/-- A write of raster memory by the host or another agent (R44). Between issue and completion it is one of the last two
cases of R88: a byte of FP(SRC, T) spoils all of FP(DST, T), a byte of FP(DST, T) is itself UNPREDICTABLE. -/
def hostMemWrite (a : Nat) (b : Byte) (s : State) : State :=
  let s1 := { s with mem := writeByte s.mem a b }
  if s.status.busy then
    match cmdType s with
    | some t =>
      { s1 with hazard :=
        { spoiled := s.hazard.spoiled || (footprint s.src t s.src.z.toNat).contains a
          touched :=
            if (footprint s.dst t s.dst.z.toNat).contains a then insertRising a s.hazard.touched
            else s.hazard.touched } }
    | none => s1
  else s1

end Sys2Proof.Machine
end

