-- ==== Sys2Proof/Machine/Checks.lean ====
section
/-! DEFINITION. The preconditions of a command and their order (spec/60_exceptions.md rules R221 to R228). They read
registers only (R228). -/

namespace Sys2Proof.Machine

/-- WIDTH is violated (R222): "N(T) >= ACC_W". -/
def widthViolated (s : State) (t : ElemType) : Bool := decide (s.params.accW ≤ elemBits t)

/-- SHAPE is violated (R223). -/
def shapeViolated (s : State) : Bool := decide (s.src.w ≠ s.dst.w) || decide (s.src.h ≠ s.dst.h)

/-- BANDS is violated (R224). -/
def bandsViolated (s : State) : Bool := decide (s.src.z.toNat < s.dst.z.toNat)

/-- NOT_1D is violated (R225). -/
def not1dViolated (s : State) : Bool :=
  decide (s.kaDim.kh ≠ 1) || decide (s.kaDim.kw.toNat ≤ 1) || decide (s.kbDim.kh ≠ 1) || decide (s.kbDim.kw.toNat ≤ 1)

/-- CAPACITY is violated (R232), the product computed exactly. -/
def capacityViolated (s : State) : Bool :=
  decide (s.params.ibufCap < s.src.w.toNat * s.src.h.toNat * s.src.z.toNat)

/-- Check(CONV): the first violated precondition in the order of R228, or none. -/
def checkConv (e : EType) (s : State) : Option Cause :=
  match e.elem? with
  | none => some .etype
  | some t =>
    if widthViolated s t then some .width
    else if shapeViolated s then some .shape
    else if bandsViolated s then some .bands
    else none

/-- Check(CONVSEP): as Check(CONV), then NOT_1D, then CAPACITY (R228). -/
def checkConvsep (e : EType) (s : State) : Option Cause :=
  match checkConv e s with
  | some c => some c
  | none =>
    if not1dViolated s then some .not1d
    else if capacityViolated s then some .capacity
    else none

end Sys2Proof.Machine
end

