-- ==== Sys2Proof/Machine/Engine.lean ====
section
/-! DEFINITION. The running command: acceptance (spec/60_exceptions.md rule R229), the sequencer and the lanes
(spec/10_state.md rule R39, spec/40_convolution_engine.md rules R140 to R143), completion (rule R148). One step of a lane
handles one tap, or quantizes and stores one sample; R39 lets a model choose ("one atomic step per row, or per sample, or
per tap"; log 9). -/

namespace Sys2Proof.Machine

/-- What of R88 holds at issue: the footprints share a byte, or two destination samples do (log 11, log 29). -/
def launchHazard (s : State) (t : ElemType) : Hazard :=
  let out := footprint s.dst t s.dst.z.toNat
  { spoiled := out.any (fun a => (footprint s.src t s.src.z.toNat).contains a) || hasRepeat out
    touched := [] }

/-- The UNPREDICTABLE bytes of R88 at completion (log 11). -/
def settleHazard (s : State) : State :=
  match cmdType s with
  | none => s
  | some t =>
    if s.hazard.spoiled then unpredict (footprint s.dst t s.dst.z.toNat) s
    else if s.hazard.touched.isEmpty then s
    else unpredict s.hazard.touched s

/-- Completion (R148): BUSY 0 and DONE 1 in one step, SEQ undefined; IBUF is released (R170). -/
def complete (s : State) : State :=
  let s1 := settleHazard s
  { s1 with
    status := { s1.status with busy := false, done := true }
    seq := none
    ibuf := []
    hazard := Hazard.none }

/-- SEQ at the start of a pass (R39 items 1 and 4). -/
def freshSeq (p : Pass) : Seq := { pass := p, z := 0, rowsDone := [], lanes := [] }

/-- A pass begins. A pass with nothing to compute ends at once (R39, R149), so the next begins, or the command
completes. -/
def startPass (p : Pass) (s : State) : State :=
  if passEmpty s p then
    match p with
    | .single => complete s
    | .sep1 => if passEmpty s .sep2 then complete s else { s with seq := some (freshSeq .sep2) }
    | .sep2 => complete s
  else { s with seq := some (freshSeq p) }

/-- BUSY is set and CMDL latches bits 13:0 of the word (R229, R30); the hazards present at issue are noted (log 11). -/
def latchCommand (c : BitVec 14) (s : State) : State :=
  let s1 := { s with status := { s.status with busy := true }, cmdl := c }
  { s1 with hazard :=
    match cmdType s1 with
    | some t => launchHazard s1 t
    | none => Hazard.none }

/-- Acceptance (R229). A command over an empty raster completes inside the CMD write (R205, R149; log 13). -/
def accept (c : BitVec 14) (p : Pass) (s : State) : State := startPass p (latchCommand c s)

/-- Out(z, y, x, p) of a pass (R130, R164, R165). Where R88 has made FP(DST, T) UNPREDICTABLE the bytes stored are free
values (log 11). -/
def passOut (s : State) (t : ElemType) (p : Pass) (z y x : Nat) (pat : BitVec 32) : State :=
  match p with
  | .sep1 => { s with ibuf := cellSet s.ibuf (ibufIndex s z y x) pat }
  | .single =>
    if s.hazard.spoiled then unpredict (sampleBytes s.dst t z y x) s
    else { s with mem := storeSample s.mem s.dst t z y x pat }
  | .sep2 =>
    if s.hazard.spoiled then unpredict (sampleBytes s.dst t z y x) s
    else { s with mem := storeSample s.mem s.dst t z y x pat }

/-- The number of taps of a pass's kernel view (R132). -/
def tapCount (s : State) (p : Pass) : Nat := viewW s p * viewH s p

/-- ACC of a lane after its next tap (R138). The input sample is read in this step, so a source sample is read once for
every tap that uses it: R41, R42 and R81 leave open how often it is read (DESIGN CHOICE, log 30). -/
def laneTap (s : State) (t : ElemType) (q : Seq) (l : Lane) : Int :=
  tapStep s.params.accW (rasterW s) (rasterH s) (viewW s q.pass) (viewH s q.pass) (viewCoef s q.pass)
    (passIn s t q.pass q.z) l.x l.y l.acc l.tap

/-- The pattern a lane stores when every tap is in ACC (R140, R180). -/
def lanePattern (s : State) (t : ElemType) (q : Seq) (l : Lane) : BitVec 32 :=
  fpq s.params.accW t l.acc (passRshift s q.pass) (passOffset s q.pass)

/-- SEQ after lane number `k`, holding `l`, has stored a sample: the lane goes to the next column with ACC cleared, or
its row joins rows_done and the lane is free (R37, R39 item 2). -/
def afterStore (w : Nat) (q : Seq) (k : Nat) (l : Lane) : Seq :=
  if l.x + 1 < w then { q with lanes := q.lanes.set k { y := l.y, x := l.x + 1, tap := 0, acc := 0 } }
  else { q with rowsDone := insertRising l.y q.rowsDone, lanes := q.lanes.eraseIdx k }

/-- Lane number `k` of those that hold a row goes on with it (R143). -/
def laneStep (k : Nat) (s : State) : State :=
  match s.seq, cmdType s with
  | some q, some t =>
    match q.lanes[k]? with
    | none => s
    | some l =>
      if l.tap < tapCount s q.pass then
        { s with seq := some { q with lanes := q.lanes.set k { l with tap := l.tap + 1, acc := laneTap s t q l } } }
      else
        { passOut s t q.pass q.z l.y l.x (lanePattern s t q l) with seq := some (afterStore (rasterW s) q k l) }
  | _, _ => s

/-- Row `y` of the current band may be taken: it is not done and no lane holds it (R39 item 2). -/
def rowFree (q : Seq) (y : Nat) : Bool := !q.rowsDone.contains y && !q.lanes.any (fun l => l.y == y)

/-- A lane that holds no row takes row `y` (R39 item 2, R143). -/
def takeRow (y : Nat) (s : State) : State :=
  match s.seq with
  | some q =>
    if y < rasterH s ∧ q.lanes.length < s.params.nlanes ∧ rowFree q y = true then
      { s with seq := some { q with lanes := q.lanes ++ [{ y := y, x := 0, tap := 0, acc := 0 }] } }
    else s
  | none => s

/-- rows_done = [0, H) (R39 item 3). -/
def bandDone (s : State) (q : Seq) : Bool := (List.range (rasterH s)).all fun y => q.rowsDone.contains y

/-- What follows the last band of a pass (R39 item 4, R163, R148). -/
def finishPass (p : Pass) (s : State) : State :=
  match p with
  | .single => complete s
  | .sep1 => startPass .sep2 s
  | .sep2 => complete s

/-- The sequencer closes a finished band (R39 items 3 and 4): the next band begins, or the pass ends. -/
def closeBand (s : State) : State :=
  match s.seq with
  | some q =>
    if bandDone s q then
      if q.z + 1 < zproc s q.pass then
        { s with seq := some { pass := q.pass, z := q.z + 1, rowsDone := [], lanes := [] } }
      else finishPass q.pass s
    else s
  | none => s

/-- One step of an engine agent. The engine runs only in ES = RUN (R38); a move that is not enabled changes nothing. -/
def engineStep (m : EngineMove) (s : State) : State :=
  if s.status.busy then
    match m with
    | .take y => takeRow y s
    | .lane k => laneStep k s
    | .sequence => closeBand s
  else s

/-- The engine's move when the schedule names none (log 10): close a finished band; else go on with the first lane; else
take the lowest free row. -/
def defaultMove (s : State) : EngineMove :=
  match s.seq with
  | none => .sequence
  | some q =>
    if bandDone s q then .sequence
    else if q.lanes.isEmpty then
      .take (((List.range (rasterH s)).find? fun y => rowFree q y).getD 0)
    else .lane 0

/-- The engine takes the default move. -/
def engineDefault (s : State) : State := engineStep (defaultMove s) s

end Sys2Proof.Machine
end

