-- ==== Sys2Proof/Machine/Issue.lean ====
section
/-! DEFINITION. What a write to CMD does once its word is decoded (spec/43_host_operations.md rule R205), shared by the
commands. -/

namespace Sys2Proof.Machine

/-- ES is IDLE: neither BUSY nor ERR (R38). In any other state a write to CMD is ignored (R30, R205). -/
def issueAllowed (s : State) : Bool := !s.status.busy && !s.status.err

/-- The issue of CONV or CONVSEP (R130, R160, R205): DONE is cleared, the command is checked, and it is refused with the
cause or accepted with its first pass, all inside the CMD write. CMDL takes bits 13:0 of the command's word (R229). -/
def issue (i : Instr) (first : Pass) (verdict : Option Cause) (s : State) : State :=
  if issueAllowed s then
    match verdict with
    | some c => raise c (clearDone s)
    | none => accept ((encode i).setWidth 14) first (clearDone s)
  else s

/-- The issue of a word that decodes to ILLEGAL (R205, R226). -/
def issueIllegal (s : State) : State :=
  if issueAllowed s then raise .illegalCmd (clearDone s) else s

end Sys2Proof.Machine
end

