-- ==== Sys2Proof/Machine/Conv.lean ====
section
/-! DEFINITION. The CONV command (spec/40_convolution_engine.md rule R130). The CMD write issues it: this file. The
accepted command then runs as steps of the sequencer and the lanes, pass SINGLE: Machine/Engine.lean. -/

namespace Sys2Proof.Machine

/-- CONV at issue (R130): checked by Check(CONV) (R228), then pass SINGLE from band 0. -/
def execConv (etype : EType) (ksel : Bank) (rshift : Nat) (s : State) : Host.Outcome State Fault Refusal :=
  .next (issue (.conv etype ksel rshift) .single (checkConv etype s) s)

end Sys2Proof.Machine
end

