-- ==== Sys2Proof/Machine/Convsep.lean ====
section
/-! DEFINITION. The CONVSEP command (spec/41_separable_decomposer.md rule R160). The CMD write issues it: this file. The
accepted command then runs as steps of the sequencer and the lanes, pass SEP1 through IBUF and pass SEP2 out of it:
Machine/Engine.lean. -/

namespace Sys2Proof.Machine

/-- CONVSEP at issue (R160): checked by Check(CONVSEP) (R228), then pass SEP1 from band 0. -/
def execConvsep (etype : EType) (rshift : Nat) (s : State) : Host.Outcome State Fault Refusal :=
  .next (issue (.convsep etype rshift) .sep1 (checkConvsep etype s) s)

end Sys2Proof.Machine
end

