-- ==== Sys2Proof/Machine/Nop.lean ====
section
/-! DEFINITION. The NOP command (spec/43_host_operations.md rule R204). -/

namespace Sys2Proof.Machine

/-- NOP: "It changes no register, not even STATUS.DONE, reads and writes no memory, and does not enter RUN" (R204). -/
def execNop (s : State) : Host.Outcome State Fault Refusal := .next s

end Sys2Proof.Machine
end

