-- ==== Sys2Proof/Machine/Dispatch.lean ====
section
/-! DEFINITION. The meaning of each command (spec/30_encoding.md rule R100). -/

namespace Sys2Proof.Machine

def exec (i : Instr) (s : State) : Host.Outcome State Fault Refusal :=
  match i with
  | .nop => Sys2Proof.Machine.execNop s
  | .conv etype ksel rshift => Sys2Proof.Machine.execConv etype ksel rshift s
  | .convsep etype rshift => Sys2Proof.Machine.execConvsep etype rshift s

end Sys2Proof.Machine
end

