-- ==== Sys2Proof/Machine/Port.lean ====
section
/-! DEFINITION. The register port (spec/43_host_operations.md rules R200 to R205, R211) and what one move of the outside
world does. It stands after Machine/Dispatch.lean because a write to CMD runs a command. -/

namespace Sys2Proof.Machine

/-- A write of `w` to CMD (R205): the decoded command runs, or the word is ILLEGAL. -/
def writeCmd (w : Word) (s : State) : Host.Outcome State Fault Refusal :=
  match decode w with
  | .command i => exec i s
  | .illegal _ => .next (issueIllegal s)

/-- A register write at a word offset (R202); a reserved offset ignores it (R34). -/
def writeOffset (off : Nat) (v : Word) (s : State) : Host.Outcome State Fault Refusal :=
  match regAt off with
  | none => .next s
  | some r => if r = .cmd then writeCmd v s else .next (writeReg r v s)

/-- A register write of `size` bytes; one that is not an aligned 32-bit access is refused (R211). -/
def portWrite (off size : Nat) (v : Word) (s : State) : Host.Outcome State Fault Refusal :=
  if definedAccess off size then writeOffset off v s else .refused .undefinedPortAccess

/-- A register read of `size` bytes (R201): no state of the block changes, the host gets the word. -/
def portRead (off size : Nat) (s : State) : Host.Outcome State Fault Refusal :=
  if definedAccess off size then .next { s with rdata := readOffset s off } else .refused .undefinedPortAccess

/-- The host's poll of STATUS (spec/30_encoding.md rule R116, `wait`; log 16): while BUSY reads 1 the engine goes on and
the poll stays next; when it reads 0 the host has the word and goes on with `rest`. -/
def pollStatus (rest : List Move) (s : State) : State :=
  if s.status.busy then engineDefault s else { s with rdata := statusWord s.status, moves := rest }

/-- A host write of raster memory; an address of 2^32 or more does not exist (log 15). -/
def hostWrite (a : Nat) (b : Byte) (s : State) : Host.Outcome State Fault Refusal :=
  if a < memSize then .next (hostMemWrite a b s) else .fault .addressOutsideMemory

/-- What the next move does, `rest` being the moves after it. -/
def perform (m : Move) (rest : List Move) (s : State) : Host.Outcome State Fault Refusal :=
  match m with
  | .rd off size => portRead off size { s with moves := rest }
  | .wr off size v => portWrite off size v { s with moves := rest }
  | .await => .next (pollStatus rest s)
  | .memWrite a b => hostWrite a b { s with moves := rest }
  | .hardwareReset => .next (hardwareReset { s with moves := rest })
  | .engine e => .next (engineStep e { s with moves := rest })

/-- What happens when the outside world does nothing: a running command goes on (spec/70_reset_and_hazards.md rule R265),
and otherwise the block "takes no step until the host writes a register" (R250; log 19). -/
def unattended (s : State) : State := if s.status.busy then engineDefault s else s

/-- The moves after which the next step is a write of `w` to CMD: where step takes its next command from (log 1). -/
def cmdWriteFirst (w : Word) (moves : List Move) : List Move := .wr (regOffset .cmd) 4 w :: moves

end Sys2Proof.Machine
end

