-- ==== Sys2Proof/Machine/Step.lean ====
section
/-! DEFINITION. One step of the machine. The block fetches no instructions (spec/10_state.md rule R39): a command arrives
as a write to CMD, one of the moves the state holds (log 1). -/

namespace Sys2Proof.Machine

/-- One step: the next move, or what the block does when there is none. -/
def step (s : State) : Host.Outcome State Fault Refusal :=
  match s.moves with
  | [] => .next (unattended s)
  | m :: rest => perform m rest s

/-- The state whose next step is a write to CMD of the word that the opcode table's bits name (log 1). -/
def State.withFetchWord (s : State) (nbits w : Nat) : State :=
  { s with moves := cmdWriteFirst (tableWord nbits w) s.moves }

end Sys2Proof.Machine
end

