-- ==== Sys2Proof/Machine/ClosedForm.lean ====
section
/-! DEFINITION. What a command stores, written out in full as a function of the state at issue: CONV by
spec/40_convolution_engine.md rule R142, CONVSEP by spec/41_separable_decomposer.md rule R171. The step function does not
use these definitions; statements compare it with them. -/

namespace Sys2Proof.Machine

/-- The input band `z` of SRC as rows and columns (R77). -/
def srcBand (s : State) (t : ElemType) (z y x : Nat) : Int := loadSample s.mem s.src t z y x

/-- S of R142: the exact dense sum with a bank's kernel. -/
def denseSum (s : State) (t : ElemType) (bank : Bank) (z y x : Nat) : Int :=
  exactSum (rasterW s) (rasterH s) (bankDim s bank).kw.toNat (bankDim s bank).kh.toNat (bankCoef s bank)
    (srcBand s t z) x y

/-- The pattern CONV stores in dst[z][y][x] (R142). -/
def densePattern (s : State) (t : ElemType) (bank : Bank) (rshift z y x : Nat) : BitVec 32 :=
  fpq s.params.accW t (wrapS s.params.accW (denseSum s t bank z y x)) rshift (offsetVal s)

/-- The exact row sum of pass 1 (R171). -/
def rowSum (s : State) (t : ElemType) (z y x : Nat) : Int :=
  exactSum (rasterW s) (rasterH s) s.kaDim.kw.toNat 1 (fun _ kx => bankCoef s .a 0 kx) (srcBand s t z) x y

/-- t(z, yy, x) of R171: the intermediate sample, saturated to T (R167). -/
def midSample (s : State) (t : ElemType) (z y x : Nat) : Int :=
  clamp (wrapS s.params.accW (rowSum s t z y x)) (tMin t) (tMax t)

/-- The exact column sum of pass 2 (R171). -/
def columnSum (s : State) (t : ElemType) (z y x : Nat) : Int :=
  exactSum (rasterW s) (rasterH s) 1 s.kbDim.kw.toNat (fun ky _ => bankCoef s .b 0 ky) (midSample s t z) x y

/-- The pattern CONVSEP stores in dst[z][y][x] (R171). -/
def sepPattern (s : State) (t : ElemType) (rshift z y x : Nat) : BitVec 32 :=
  fpq s.params.accW t (wrapS s.params.accW (columnSum s t z y x)) rshift (offsetVal s)

/-- The exact dense sum with the outer product of the two row vectors, coef(ky, kx) = Y[ky] * X[kx] (R168). -/
def outerSum (s : State) (t : ElemType) (z y x : Nat) : Int :=
  exactSum (rasterW s) (rasterH s) s.kaDim.kw.toNat s.kbDim.kw.toNat
    (fun ky kx => bankCoef s .b 0 ky * bankCoef s .a 0 kx) (srcBand s t z) x y

end Sys2Proof.Machine
end

