-- ==== Sys2Proof/Machine/HostNotation.lean ====
section
/-! DEFINITION. The host-program notation of spec/30_encoding.md rules R114 to R116: base statements and
pseudo-instructions, and the register accesses each stands for. `none` is the assembler's refusal of a statement: a
coefficient outside 16 bits (R110, R116), an rshift above 63 (R114), a kernel position that is no entry of a bank
(R206), or a kernel list of the wrong length (R116; log 23). A value that does not fit 32 bits is no refusal (log 31). -/

namespace Sys2Proof.Machine

/-- Which raster a `raster` statement describes (R116). -/
inductive RasterName where
  | src | dst
deriving DecidableEq, Repr

/-- A statement of the notation (R114 to R116). Optional operands are the ones that may be left out (R115). R116 names no
range for the sizes of `kdim` and `kernel` or the positions of `kset` and `kget`: they are natural numbers here, so a
negative one cannot be written (DESIGN CHOICE, log 32); the operands of `raster` are integers. -/
inductive Stmt where
  | wr (r : Reg) (v : Int)
  | rd (r : Reg)
  | nop
  | conv (t : ElemType) (bank : Bank) (rshift : Nat)
  | convsep (t : ElemType) (rshift : Nat)
  | convolve (t : ElemType) (bank : Bank) (rshift : Option Nat) (offset : Option Int)
  | convolveSeparable (t : ElemType) (rshift : Option Nat) (offset : Option Int)
  | raster (n : RasterName) (base w h z rstride bstride : Int)
  | kdim (bank : Bank) (w h : Nat)
  | kset (bank : Bank) (x y : Nat) (v : Int)
  | kget (bank : Bank) (x y : Nat)
  | kernel (bank : Bank) (w h : Nat) (vs : List Int)
  | wait
  | ack
  | srst
deriving DecidableEq, Repr

/-- One register write of a word (R114). -/
def wrWord (r : Reg) (v : Word) : Move := .wr (regOffset r) 4 v

/-- One register write of the value's 32-bit two's complement pattern (R114). R114 says nothing of a value that does not
fit 32 bits: it is reduced modulo 2^32 (DESIGN CHOICE, log 31). -/
def wrMove (r : Reg) (v : Int) : Move := wrWord r (BitVec.ofInt 32 v)

/-- The word `<hi> << n | <lo>` of two fields of the notation (R116), its low 32 bits (log 31). -/
def fieldsWord (hi lo : Int) (n : Nat) : Word := BitVec.ofInt 32 hi <<< n ||| BitVec.ofInt 32 lo

/-- One register read (R114). -/
def rdMove (r : Reg) : Move := .rd (regOffset r) 4

/-- The write to CMD that a command is (R114), if its word exists. -/
def cmdMove (i : Instr) : Option (List Move) :=
  if i.wellFormed then some [.wr (regOffset .cmd) 4 (encode i)] else none

/-- The DIM register of a bank (R116). -/
def dimReg : Bank → Reg
  | .a => .kaDim
  | .b => .kbDim

/-- The COEF register at column `x`, row `y` of a bank (R116). -/
def coefReg (bank : Bank) (x y : Nat) : Reg :=
  match bank with
  | .a => .kaCoef (entryIndex y x)
  | .b => .kbCoef (entryIndex y x)

/-- `kset` (R116, R206). -/
def ksetMove (bank : Bank) (x y : Nat) (v : Int) : Option Move :=
  if x < 16 ∧ y < 16 ∧ -32768 ≤ v ∧ v ≤ 32767 then some (wrMove (coefReg bank x y) v) else none

/-- `kdim` (R116); its sizes are natural numbers (DESIGN CHOICE, log 32). -/
def kdimMove (bank : Bank) (w h : Nat) : Move := wrWord (dimReg bank) (fieldsWord h w 8)

/-- The `kset` of every coefficient of a kernel of width `w`, rows in order, the first of them being number `n` (R116). -/
def ksetAll (bank : Bank) (w : Nat) : Nat → List Int → Option (List Move)
  | _, [] => some []
  | n, v :: vs =>
    match ksetMove bank (n % w) (n / w) v, ksetAll bank w (n + 1) vs with
    | some m, some ms => some (m :: ms)
    | _, _ => none

/-- The five writes of a `raster` statement (R116). -/
def rasterMoves (n : RasterName) (base w h z rstride bstride : Int) : List Move :=
  let size := fieldsWord h w 16
  match n with
  | .src => [wrMove .srcBase base, wrMove .srcRstride rstride, wrMove .srcBstride bstride, wrWord .srcSize size,
      wrMove .srcBands z]
  | .dst => [wrMove .dstBase base, wrMove .dstRstride rstride, wrMove .dstBstride bstride, wrWord .dstSize size,
      wrMove .dstBands z]

/-- The register accesses of a statement (R114 to R116). The word of `ack` clears DONE, that of `srst` sets CTRL.SRST. -/
def assemble : Stmt → Option (List Move)
  | .wr r v => some [wrMove r v]
  | .rd r => some [rdMove r]
  | .nop => cmdMove .nop
  | .conv t bank rshift => cmdMove (.conv t.etype bank rshift)
  | .convsep t rshift => cmdMove (.convsep t.etype rshift)
  | .convolve t bank rshift offset =>
    (cmdMove (.conv t.etype bank (rshift.getD 0))).map (wrMove .offset (offset.getD 0) :: ·)
  | .convolveSeparable t rshift offset =>
    (cmdMove (.convsep t.etype (rshift.getD 0))).map (wrMove .offset (offset.getD 0) :: ·)
  | .raster n base w h z rstride bstride => some (rasterMoves n base w h z rstride bstride)
  | .kdim bank w h => some [kdimMove bank w h]
  | .kset bank x y v => (ksetMove bank x y v).map ([·])
  | .kget bank x y => if x < 16 ∧ y < 16 then some [rdMove (coefReg bank x y)] else none
  | .kernel bank w h vs =>
    if vs.length = w * h then (ksetAll bank w 0 vs).map (kdimMove bank w h :: ·) else none
  | .wait => some [.await]
  | .ack => some [wrMove .status 2]
  | .srst => some [wrMove .ctrl 0x80000000]

/-- The register accesses of a program, or the refusal of one of its statements. -/
def assembleAll : List Stmt → Option (List Move)
  | [] => some []
  | st :: rest =>
    match assemble st, assembleAll rest with
    | some ms, some more => some (ms ++ more)
    | _, _ => none

end Sys2Proof.Machine
end

