-- ==== Sys2Proof/Safety.lean ====
section
/-! DEFINITION. What a good state and a good run are: the invariants every step keeps, the obligations of software that
claims take as premises (spec/70_reset_and_hazards.md rule R258), and the words the statements use. -/

namespace Sys2Proof.Machine

/-- ES = IDLE (R38). -/
abbrev State.Idle (s : State) : Prop := s.status.busy = false ∧ s.status.err = false

/-- R258 items 1 and 2, the two obligations that concern the descriptors: the footprints share no byte, and no two
destination samples share a byte. -/
abbrev LaunchOk (s : State) (t : ElemType) : Prop :=
  (∀ a ∈ footprint s.dst t s.dst.z.toNat, a ∉ footprint s.src t s.src.z.toNat) ∧
    (footprint s.dst t s.dst.z.toNat).Nodup

/-- A dense layout with no wrap-around (R258 item 2): rows do not overlap, bands do not overlap, and the raster ends
before 2^32. -/
abbrev DenseLayout (d : Descriptor) (t : ElemType) : Prop :=
  d.w.toNat * elemBytes t ≤ d.rstride.toNat ∧ d.h.toNat * d.rstride.toNat ≤ d.bstride.toNat ∧
    d.base.toNat + d.z.toNat * d.bstride.toNat ≤ memSize

/-- The move is one that R258 items 3 and 8 and R83 allow during a run whose result is claimed: a step of the engine, a
register read, or the poll of STATUS, which is register reads (R116, log 16). -/
def Move.harmless : Move → Bool
  | .rd _ _ => true
  | .wr _ _ _ => false
  | .await => true
  | .memWrite _ _ => false
  | .hardwareReset => false
  | .engine _ => true

/-- The facts R31 derives about STATUS, and SEQ is defined exactly while ES = RUN (R39). -/
abbrev State.StatusOk (s : State) : Prop := s.status.wf = true ∧ s.status.busy = s.seq.isSome

/-- SEQ is one that R39 describes: the band, the finished rows and the rows in the lanes are rows and bands of the
command; no row is both done and held, no row is held twice, no more lanes are busy than there are; and each ACC holds
an ACC_W-bit value (R37). -/
structure SeqOk (s : State) (q : Seq) : Prop where
  band : q.z < zproc s q.pass
  doneRows : ∀ y ∈ q.rowsDone, y < rasterH s
  doneRising : q.rowsDone.Pairwise (· < ·)
  laneRows : ∀ l ∈ q.lanes, l.y < rasterH s ∧ l.y ∉ q.rowsDone
  laneColumns : ∀ l ∈ q.lanes, l.x < rasterW s ∧ l.tap ≤ tapCount s q.pass
  laneAcc : ∀ l ∈ q.lanes, accMin s.params.accW ≤ l.acc ∧ l.acc ≤ accMax s.params.accW
  laneDistinct : (q.lanes.map (fun l => l.y)).Nodup
  laneCount : q.lanes.length ≤ s.params.nlanes

/-- The running command is one that was accepted (R228), over a raster that is not empty. -/
structure CommandOk (s : State) (p : Pass) (t : ElemType) : Prop where
  type : cmdType s = some t
  width : elemBits t < s.params.accW
  shapeW : s.src.w = s.dst.w
  shapeH : s.src.h = s.dst.h
  bands : s.dst.z.toNat ≤ s.src.z.toNat
  columns : 0 < rasterW s
  rows : 0 < rasterH s
  oneD : p ≠ .single → not1dViolated s = false
  capacity : p ≠ .single → capacityViolated s = false

/-- While a command runs it is an accepted one and SEQ is as R39 describes. -/
abbrev State.RunOk (s : State) : Prop :=
  ∀ q, s.seq = some q → ∃ t, CommandOk s q.pass t ∧ SeqOk s q

/-- Every IBUF entry lies inside the buffer's capacity (R36, R232). -/
abbrev State.IbufOk (s : State) : Prop :=
  cellsWf s.ibuf = true ∧ (s.seq = none → s.ibuf = []) ∧
    ∀ c ∈ s.ibuf, c.1 < rasterW s * rasterH s * s.src.z.toNat ∧ c.1 < s.params.ibufCap

/-- The model's notes on R88 are empty outside a run, and inside one they name bytes of FP(DST, T) only (log 11). -/
abbrev State.HazardOk (s : State) : Prop :=
  (s.status.busy = false → s.hazard = Hazard.none) ∧
    ∀ t, cmdType s = some t → ∀ a ∈ s.hazard.touched, a ∈ footprint s.dst t s.dst.z.toNat

/-- The invariant of the machine. -/
structure State.Inv (s : State) : Prop where
  params : s.params.Legal
  status : s.StatusOk
  run : s.RunOk
  ibuf : s.IbufOk
  hazard : s.HazardOk
  memory : Memory.wf s.mem = true

/-- `k` steps of the machine end in `u`. -/
abbrev Reaches (s : State) (k : Nat) (u : State) : Prop := Sys2Proof.core.run k s = .next u

/-- The operand registers, CTRL and the instance's constants of two states agree (R35). -/
structure SameOperands (s u : State) : Prop where
  params : u.params = s.params
  ctrl : u.ctrl = s.ctrl
  offset : u.offset = s.offset
  src : u.src = s.src
  dst : u.dst = s.dst
  kaDim : u.kaDim = s.kaDim
  kbDim : u.kbDim = s.kbDim
  kaCoef : u.kaCoef = s.kaCoef
  kbCoef : u.kbCoef = s.kbCoef

/-- `u` is after the completion of a command issued in `s`: BUSY is 0, DONE is 1, the rest of STATUS is as it was, there
is no SEQ, and IBUF is released (R148, R170). -/
structure CompletedFrom (s u : State) : Prop where
  status : u.status = { s.status with busy := false, done := true }
  seq : u.seq = none
  ibuf : u.ibuf = []

/-- The state R230 gives for a violation with cause code `c` raised in `s`: the four STATUS fields, and nothing else. -/
def refusedWith (c : BitVec 4) (s : State) : State :=
  { s with status := { busy := false, done := false, err := true, cause := c } }

/-- The state R229 gives for a command accepted in `s`: STATUS, CMDL, SEQ at the start of pass `p`, and the model's notes
on the hazards of R88. -/
def acceptedAs (i : Instr) (p : Pass) (t : ElemType) (s : State) : State :=
  { s with
    status := { s.status with busy := true, done := false }
    cmdl := (encode i).setWidth 14
    seq := some { pass := p, z := 0, rowsDone := [], lanes := [] }
    hazard := launchHazard s t }

/-- The state after a command over an empty raster (R149, log 13): CMDL was latched and the command has completed. -/
def completedAtOnce (i : Instr) (s : State) : State :=
  { s with
    status := { s.status with busy := false, done := true }
    cmdl := (encode i).setWidth 14
    seq := none
    ibuf := []
    hazard := Hazard.none }

/-- The preconditions both commands share hold for element type `t` (R222, R223, R224). -/
abbrev CommonPreconditions (s : State) (t : ElemType) : Prop :=
  elemBits t < s.params.accW ∧ s.src.w = s.dst.w ∧ s.src.h = s.dst.h ∧ s.dst.z.toNat ≤ s.src.z.toNat

/-- The two kernels are 1D with width greater than 1 (R225). -/
abbrev Kernels1D (s : State) : Prop :=
  s.kaDim.kh = 1 ∧ 1 < s.kaDim.kw.toNat ∧ s.kbDim.kh = 1 ∧ 1 < s.kbDim.kw.toNat

/-- The intermediate raster fits IBUF (R232). -/
abbrev FitsIbuf (s : State) : Prop := s.src.w.toNat * s.src.h.toNat * s.src.z.toNat ≤ s.params.ibufCap

/-- The command `i` passes its checks in `s`, with element type `t` (R228). -/
def Accepts (i : Instr) (s : State) (t : ElemType) : Prop :=
  match i with
  | .nop => False
  | .conv e _ _ => e.elem? = some t ∧ CommonPreconditions s t
  | .convsep e _ => e.elem? = some t ∧ CommonPreconditions s t ∧ Kernels1D s ∧ FitsIbuf s

/-- The pattern the command `i` issued in `s` stores in dst[z][y][x] (R142, R171). -/
def storedPattern (i : Instr) (s : State) (t : ElemType) (z y x : Nat) : BitVec 32 :=
  match i with
  | .nop => 0
  | .conv _ bank rshift => densePattern s t bank rshift z y x
  | .convsep _ rshift => sepPattern s t rshift z y x

/-- Every byte of raster memory outside FP(DST, T) reads as it did (R82, R88). -/
abbrev UnchangedOutside (s u : State) (t : ElemType) : Prop :=
  ∀ a, a < memSize → a ∉ footprint s.dst t s.dst.z.toNat → readByte u.mem a = readByte s.mem a

/-- Raster memory of `u` is that of `s` with the sample (z, y, x) of DST holding `pattern z y x`, for every sample, and
every other byte as it was (R82). -/
abbrev HoldsResult (s u : State) (t : ElemType) (pattern : Nat → Nat → Nat → BitVec 32) : Prop :=
  (∀ z y x, z < s.dst.z.toNat → y < s.dst.h.toNat → x < s.dst.w.toNat →
      memRead u.mem (sampleAddr s.dst t z y x) (elemBytes t) = pattern z y x) ∧
    UnchangedOutside s u t

/-- During a run each byte of a destination sample holds its value at issue or the value the command stores (R83 item
5). -/
abbrev OldOrNew (s u : State) (t : ElemType) (pattern : Nat → Nat → Nat → BitVec 32) : Prop :=
  ∀ z y x n, z < s.dst.z.toNat → y < s.dst.h.toNat → x < s.dst.w.toNat → n < elemBytes t →
    readByte u.mem (sampleAddr s.dst t z y x + n) = readByte s.mem (sampleAddr s.dst t z y x + n) ∨
      readByte u.mem (sampleAddr s.dst t z y x + n) = (pattern z y x).extractLsb' (8 * n) 8

end Sys2Proof.Machine
end

