-- ==== Sys2Proof/Certificates/Slice0/Obligations.lean ====
section
/-! DEFINITION. The statements about the block, for the provers. Each docstring names the rule of spec/ it formalises; "log
<n>" is an entry of notes/assumptions. -/

open Sys2Proof Sys2Proof.Machine

/-! ## The command word -/

/-- Decoding the word of a well-formed command gives the command back (R101, R102, R113). -/
def Obligations.DecodeOfEncode : Prop :=
  ∀ i : Instr, i.wellFormed = true → decode (encode i) = .command i

/-- A word that decodes to CONV or CONVSEP is the one word of that command, and what a word decodes to is well formed. -/
def Obligations.EncodeOfDecode : Prop :=
  ∀ (w : Word) (i : Instr), decode w = .command i → i.wellFormed = true ∧ (i ≠ .nop → encode i = w)

/-- R113: the opcode map, with the fields of each row; every word that matches no row is ILLEGAL. -/
def Obligations.DecodeFollowsOpcodeMap : Prop :=
  ∀ w : Word,
    (w &&& 0xFFFFC00F#32 = 0x00000000#32 → decode w = .command .nop) ∧
    (w &&& 0xFFFFC00F#32 = 0x00000001#32 →
      decode w = .command (.conv (etypeOfField (w.extractLsb' 4 3)) (bankOfField (w.extractLsb' 7 1))
        (w.extractLsb' 8 6).toNat)) ∧
    (w &&& 0xFFFFC08F#32 = 0x00000002#32 →
      decode w = .command (.convsep (etypeOfField (w.extractLsb' 4 3)) (w.extractLsb' 8 6).toNat)) ∧
    (w &&& 0xFFFFC00F#32 ≠ 0x00000000#32 → w &&& 0xFFFFC00F#32 ≠ 0x00000001#32 →
      w &&& 0xFFFFC08F#32 ≠ 0x00000002#32 → ∃ why, decode w = .illegal why)

/-- R107, R226: the illegal words are those with a non-zero bit in 31:14, those with OP in 3 to 15, and CONVSEP words with
bit 7 set; writing one to CMD in IDLE has the effect of R230 with cause 7, and no other. -/
def Obligations.IllegalWordsRaiseIllegalCommand : Prop :=
  (∀ w : Word, (∃ why, decode w = .illegal why) ↔
    (w.extractLsb' 14 18 ≠ 0#18 ∨ 3 ≤ (w.extractLsb' 0 4).toNat ∨
      (w.extractLsb' 0 4 = 2#4 ∧ w.getLsbD 7 = true))) ∧
  ∀ (s : State) (w : Word) (rest : List Move) (why : IllegalWord),
    s.Idle → s.moves = .wr 0x014 4 w :: rest → decode w = .illegal why →
      step s = .next (refusedWith 7 { s with moves := rest })

/-- R108: the words of NOP are those with bits 31:14 and OP zero, and the canonical one is 0. -/
def Obligations.NopWords : Prop :=
  (∀ w : Word, decode w = .command .nop ↔ (w.extractLsb' 14 18 = 0#18 ∧ w.extractLsb' 0 4 = 0#4)) ∧
    encode .nop = 0x00000000#32

/-- The worked encodings of R117: the statements of the host notation, the bare words, and the two refusals named. -/
def Obligations.WorkedEncodings : Prop :=
  assemble .nop = some [.wr 0x014 4 0x00000000#32] ∧
  assemble (.conv .u8 .a 0) = some [.wr 0x014 4 0x00000001#32] ∧
  assemble (.conv .u16 .a 0) = some [.wr 0x014 4 0x00000011#32] ∧
  assemble (.conv .s16 .b 4) = some [.wr 0x014 4 0x000004D1#32] ∧
  assemble (.conv .u8 .a 63) = some [.wr 0x014 4 0x00003F01#32] ∧
  assemble (.convsep .u8 4) = some [.wr 0x014 4 0x00000402#32] ∧
  assemble (.convsep .s16 4) = some [.wr 0x014 4 0x00000452#32] ∧
  assemble (.conv .u32 .a 0) = some [.wr 0x014 4 0x00000021#32] ∧
  decode 0x00000001#32 = .command (.conv .u8 .a 0) ∧
  decode 0x000004D1#32 = .command (.conv .s16 .b 4) ∧
  decode 0x00000452#32 = .command (.convsep .s16 4) ∧
  decode 0x00000021#32 = .command (.conv .u32 .a 0) ∧
  (∀ s : State, s.Idle → s.params.accW ≤ 32 → exec (.conv .u32 .a 0) s = .next (refusedWith 2 s)) ∧
  decode 0x00000031#32 = .command (.conv .reserved3 .a 0) ∧
  (∀ s : State, s.Idle → exec (.conv .reserved3 .a 0) s = .next (refusedWith 4 s)) ∧
  decode 0x00000082#32 = .illegal .convsepWithKsel ∧
  decode 0x00004001#32 = .illegal .reservedBits ∧
  decode 0x00000003#32 = .illegal .illegalOp ∧
  assemble (.kset .a 2 1 (-1)) = some [.wr 0x448 4 0xFFFFFFFF#32] ∧
  assemble (.kdim .b 3 1) = some [.wr 0x064 4 0x00000103#32]

/-- The table's bits reach the decoder as they are: the bytes of a word, lowest address first, decode as the word
(R76). -/
def Obligations.TableWordsReachTheDecoder : Prop :=
  (∀ w : Word, decodeBytes (bytesOfWord w) = decode w) ∧
    ∀ n : Nat, n < 2 ^ 32 → decodeTableWord 32 n = (decode (BitVec.ofNat 32 n)).instr?

/-! ## Issue -/

/-- When the next move is a write to CMD of a word that decodes to a command, the step is that command, in the state
without the move (R205); withFetchWord makes it the next move (log 1). -/
def Obligations.StepRunsDecodedCommand : Prop :=
  (∀ (s : State) (w : Word) (rest : List Move) (i : Instr),
    s.moves = .wr 0x014 4 w :: rest → decode w = .command i → step s = exec i { s with moves := rest }) ∧
  ∀ (s : State) (n : Nat) (i : Instr), n < 2 ^ 32 → decode (BitVec.ofNat 32 n) = .command i →
    step (s.withFetchWord 32 n) = exec i s

/-- R204: the words of the mask and match of NOP are NOP and no others are; NOP changes nothing, in every state, so a write
of such a word to CMD leaves the state as it was but that the write has happened; a word with a bit set in 31:14 is no NOP
but ILLEGAL. -/
def Obligations.NopChangesNothing : Prop :=
  (∀ w : Word, w &&& 0xFFFFC00F#32 = 0x00000000#32 ↔ decode w = .command .nop) ∧
  (∀ s : State, exec .nop s = .next s) ∧
  (∀ (s : State) (w : Word) (rest : List Move), s.moves = .wr 0x014 4 w :: rest → w &&& 0xFFFFC00F#32 = 0x00000000#32 →
    step s = .next { s with moves := rest }) ∧
  ∀ w : Word, w.extractLsb' 14 18 ≠ 0#18 → ∃ why, decode w = .illegal why

/-- R30, R205: in RUN and in FAULT a write to CMD of any word changes nothing but that the write has happened. -/
def Obligations.CommandsIgnoredUnlessIdle : Prop :=
  (∀ (i : Instr) (s : State), (s.status.busy = true ∨ s.status.err = true) → exec i s = .next s) ∧
  ∀ (s : State) (w : Word) (rest : List Move), (s.status.busy = true ∨ s.status.err = true) →
    s.moves = .wr 0x014 4 w :: rest → step s = .next { s with moves := rest }

/-- R229: CONV that passes its checks, over a raster that is not empty, is accepted: the whole next state. -/
def Obligations.ConvAccepted : Prop :=
  ∀ (s : State) (e : EType) (k : Bank) (r : Nat) (t : ElemType),
    s.Idle → e.elem? = some t → CommonPreconditions s t →
    0 < s.src.w.toNat → 0 < s.src.h.toNat → 0 < s.dst.z.toNat →
      exec (.conv e k r) s = .next (acceptedAs (.conv e k r) .single t s)

/-- R149 rows 1 and 2 (log 13): over an empty raster CONV and CONVSEP are accepted and complete inside the CMD write, with
no memory access: the whole next state. -/
def Obligations.EmptyRasterCommandsComplete : Prop :=
  ∀ (s : State) (e : EType) (r : Nat) (t : ElemType),
    s.Idle → e.elem? = some t → CommonPreconditions s t →
    (∀ k : Bank, (s.src.w = 0 ∨ s.src.h = 0 ∨ s.dst.z = 0) →
      exec (.conv e k r) s = .next (completedAtOnce (.conv e k r) s)) ∧
    (Kernels1D s → FitsIbuf s → (s.src.w = 0 ∨ s.src.h = 0 ∨ s.src.z = 0) →
      exec (.convsep e r) s = .next (completedAtOnce (.convsep e r) s))

/-- R228, R230 for CONV: the first failing check in the order ETYPE, WIDTH, SHAPE, BANDS gives the cause; the refused
command changes the four STATUS fields and nothing else. -/
def Obligations.ConvRefusedInOrder : Prop :=
  ∀ (s : State) (k : Bank) (r : Nat), s.Idle →
    (∀ e : EType, (e = .reserved3 ∨ e = .reserved7) → exec (.conv e k r) s = .next (refusedWith 4 s)) ∧
    ∀ (e : EType) (t : ElemType), e.elem? = some t →
      (s.params.accW ≤ elemBits t → exec (.conv e k r) s = .next (refusedWith 2 s)) ∧
      (elemBits t < s.params.accW → (s.src.w ≠ s.dst.w ∨ s.src.h ≠ s.dst.h) →
        exec (.conv e k r) s = .next (refusedWith 1 s)) ∧
      (elemBits t < s.params.accW → s.src.w = s.dst.w → s.src.h = s.dst.h → s.src.z.toNat < s.dst.z.toNat →
        exec (.conv e k r) s = .next (refusedWith 5 s))

/-- R229: CONVSEP that passes its checks, over a raster that is not empty, is accepted: the whole next state. -/
def Obligations.ConvsepAccepted : Prop :=
  ∀ (s : State) (e : EType) (r : Nat) (t : ElemType),
    s.Idle → e.elem? = some t → CommonPreconditions s t → Kernels1D s → FitsIbuf s →
    0 < s.src.w.toNat → 0 < s.src.h.toNat → 0 < s.src.z.toNat →
      exec (.convsep e r) s = .next (acceptedAs (.convsep e r) .sep1 t s)

/-- R228, R230 for CONVSEP: the first failing check in the order ETYPE, WIDTH, SHAPE, BANDS, NOT_1D, CAPACITY gives the
cause; the refused command changes the four STATUS fields and nothing else. -/
def Obligations.ConvsepRefusedInOrder : Prop :=
  ∀ (s : State) (r : Nat), s.Idle →
    (∀ e : EType, (e = .reserved3 ∨ e = .reserved7) → exec (.convsep e r) s = .next (refusedWith 4 s)) ∧
    ∀ (e : EType) (t : ElemType), e.elem? = some t →
      (s.params.accW ≤ elemBits t → exec (.convsep e r) s = .next (refusedWith 2 s)) ∧
      (elemBits t < s.params.accW → (s.src.w ≠ s.dst.w ∨ s.src.h ≠ s.dst.h) →
        exec (.convsep e r) s = .next (refusedWith 1 s)) ∧
      (elemBits t < s.params.accW → s.src.w = s.dst.w → s.src.h = s.dst.h → s.src.z.toNat < s.dst.z.toNat →
        exec (.convsep e r) s = .next (refusedWith 5 s)) ∧
      (CommonPreconditions s t → ¬ Kernels1D s → exec (.convsep e r) s = .next (refusedWith 3 s)) ∧
      (CommonPreconditions s t → Kernels1D s → ¬ FitsIbuf s → exec (.convsep e r) s = .next (refusedWith 6 s))

/-- What issuing any command leaves unchanged, whether it is ignored, accepted or refused: every operand register, CTRL,
the banks, all of raster memory (R231), IBUF outside its release, and the model's own rdata, moves and freeCount. -/
def Obligations.IssueFrame : Prop :=
  ∀ (i : Instr) (s : State), s.StatusOk → s.IbufOk →
    ∃ u, exec i s = .next u ∧ SameOperands s u ∧ u.mem = s.mem ∧ u.ibuf = s.ibuf ∧ u.rdata = s.rdata ∧
      u.moves = s.moves ∧ u.freeCount = s.freeCount ∧
      (u.status.err = true ∨ u.status.cause = s.status.cause)

/-! ## The running command -/

/-- From R130, R142, R148 and R258: a CONV whose launch keeps the obligations of R258 is accepted, completes, and stores
in every destination sample the value of R142; every other byte of raster memory, every operand register and rdata stay as
they were. No move is pending, so the run is under the model's default schedule (log 10); ResultIndependentOfSchedule speaks
of the others. -/
def Obligations.ConvComputesDenseConvolution : Prop :=
  ∀ (s : State) (e : EType) (k : Bank) (r : Nat) (t : ElemType),
    s.Inv → s.Idle → s.moves = [] → r < 64 → e.elem? = some t → CommonPreconditions s t → LaunchOk s t →
      ∃ v n u, exec (.conv e k r) s = .next v ∧ Reaches v n u ∧ CompletedFrom s u ∧ SameOperands s u ∧
        u.rdata = s.rdata ∧ u.moves = [] ∧ HoldsResult s u t (densePattern s t k r)

/-- From R160, R171, R148 and R258: a CONVSEP whose launch keeps the obligations of R258 is accepted, completes, and stores
in every destination sample the value of R171; everything else stays as it was. No move is pending, so the run is under the
model's default schedule (log 10); ResultIndependentOfSchedule speaks of the others. -/
def Obligations.ConvsepComputesSeparableConvolution : Prop :=
  ∀ (s : State) (e : EType) (r : Nat) (t : ElemType),
    s.Inv → s.Idle → s.moves = [] → r < 64 → e.elem? = some t → CommonPreconditions s t → Kernels1D s → FitsIbuf s →
    LaunchOk s t →
      ∃ v n u, exec (.convsep e r) s = .next v ∧ Reaches v n u ∧ CompletedFrom s u ∧ SameOperands s u ∧
        u.rdata = s.rdata ∧ u.moves = [] ∧ HoldsResult s u t (sepPattern s t r)

/-- R147: whatever schedule of the engine the moves hold (with register reads and polls of STATUS between), and however
many lanes there are, each destination byte is old or final at every point of the run (R83 item 5), no other byte changes,
and at completion every destination sample holds the same value, that of R142 or R171. -/
def Obligations.ResultIndependentOfSchedule : Prop :=
  ∀ (s : State) (i : Instr) (t : ElemType) (v : State) (n : Nat) (u : State),
    s.Inv → s.Idle → i.wellFormed = true → Accepts i s t → LaunchOk s t → s.moves.all Move.harmless = true →
    exec i s = .next v → Reaches v n u →
      OldOrNew s u t (storedPattern i s t) ∧ UnchangedOutside s u t ∧ SameOperands s u ∧
        (u.status.busy = false → CompletedFrom s u ∧ HoldsResult s u t (storedPattern i s t))

/-- After R147: two runs of one command from states that differ only in the number of lanes and in what the schedule (and
the host's register reads and polls) do, once both have completed, end with the same raster memory and the same STATUS. Of
R147's list it varies the lanes and the schedule of rows; the order of samples in a row, the order of taps and the number
of reads are fixed by the model (log 9, log 30). -/
def Obligations.ResultIndependentOfLanes : Prop :=
  ∀ (s s' : State) (i : Instr) (t : ElemType) (v v' : State) (n n' : Nat) (u u' : State),
    s.Inv → s.Idle → i.wellFormed = true → Accepts i s t → LaunchOk s t →
    1 ≤ s'.params.nlanes → s' = { s with moves := s'.moves, params := { s.params with nlanes := s'.params.nlanes } } →
    s.moves.all Move.harmless = true → s'.moves.all Move.harmless = true →
    exec i s = .next v → Reaches v n u → u.status.busy = false →
    exec i s' = .next v' → Reaches v' n' u' → u'.status.busy = false →
      u.mem = u'.mem ∧ u.status = u'.status

/-- R88: a command launched over overlapping footprints, or with destination samples that share bytes, still is accepted
and completes, STATUS behaves as for any accepted command, and no byte outside FP(DST, T) changes. The run is under the
model's default schedule (log 10). -/
def Obligations.AnyAcceptedLaunchCompletes : Prop :=
  ∀ (s : State) (i : Instr) (t : ElemType),
    s.Inv → s.Idle → s.moves = [] → i.wellFormed = true → Accepts i s t →
      ∃ v n u, exec i s = .next v ∧ Reaches v n u ∧ CompletedFrom s u ∧ SameOperands s u ∧ UnchangedOutside s u t

/-- R148, R265: from every state of the invariant a running command reaches completion after finitely many steps, where
nothing is pending but steps of the engine and polls of STATUS. That the engine goes on by itself when they are used up is
the model's default schedule (log 10), and that the memory port answers, R265's proviso, is log 27. -/
def Obligations.EveryRunEnds : Prop :=
  ∀ s : State, s.Inv → s.status.busy = true → (∀ m ∈ s.moves, m = .await ∨ ∃ e, m = .engine e) →
    ∃ n u, Reaches s n u ∧ CompletedFrom s u

/-- The invariant of Safety.lean is kept by every step: STATUS is consistent, SEQ is as R39 describes, ACC holds ACC_W-bit
values, IBUF stays inside its capacity, raster memory is canonical. -/
def Obligations.StepKeepsInvariant : Prop :=
  ∀ s u : State, s.Inv → step s = .next u → u.Inv

/-- The machine after reset meets the invariant. -/
def Obligations.ResetMeetsInvariant : Prop :=
  State.reset.Inv

/-- Every step keeps raster memory in its canonical form, from every state. -/
def Obligations.StepKeepsMemoryCanonical : Prop :=
  ∀ s u : State, Memory.wf s.mem = true → step s = .next u → Memory.wf u.mem = true

/-- R31, R39: every step keeps the derived facts about STATUS, and that SEQ is defined exactly while BUSY is 1. -/
def Obligations.StepKeepsStatusConsistent : Prop :=
  ∀ s u : State, s.StatusOk → step s = .next u → u.StatusOk

/-- R82, R250, R251: when no command runs, only a write by the host or another agent changes raster memory; while one
runs, only bytes of FP(DST, T) and the byte such a write names can change. -/
def Obligations.StepWritesOnlyDestination : Prop :=
  ∀ s u : State, s.Inv → step s = .next u →
    (s.status.busy = false → (∀ a b rest, s.moves ≠ .memWrite a b :: rest) → u.mem = s.mem) ∧
    ∀ t a, cmdType s = some t → a < memSize → a ∉ footprint s.dst t s.dst.z.toNat →
      (∀ b rest, s.moves ≠ .memWrite a b :: rest) → readByte u.mem a = readByte s.mem a

/-- R233: FAULT is left by a hardware reset or a soft reset only, and until then CAUSE keeps its code and nothing but a
host's write touches raster memory. -/
def Obligations.FaultIsSticky : Prop :=
  ∀ s u : State, s.StatusOk → s.status.err = true → step s = .next u →
    (∀ rest, s.moves ≠ .hardwareReset :: rest) →
    (∀ v rest, v.getLsbD 31 = true → s.moves ≠ .wr 0x00C 4 v :: rest) →
      u.status.err = true ∧ u.status.busy = false ∧ u.status.cause = s.status.cause ∧
        ((∀ a b rest, s.moves ≠ .memWrite a b :: rest) → u.mem = s.mem)

/-- R35, R144: no step of a running command writes an operand register, a bank, CTRL, CMDL or the instance's constants. -/
def Obligations.EngineKeepsOperands : Prop :=
  ∀ (m : EngineMove) (s : State), SameOperands s (engineStep m s) ∧ (engineStep m s).cmdl = s.cmdl ∧
    (engineStep m s).rdata = s.rdata ∧ (engineStep m s).moves = s.moves

/-- R83 item 4, R163: the engine goes on to another band or another pass only when every row of the band is done, and from
pass 1 to pass 2 only after the last band of the source. -/
def Obligations.BandAndPassBarriers : Prop :=
  ∀ (m : EngineMove) (s : State) (q q' : Seq), s.seq = some q → (engineStep m s).seq = some q' →
    (q'.pass = q.pass ∧ q'.z = q.z) ∨
      ((∀ y < rasterH s, y ∈ q.rowsDone) ∧
        ((q'.pass = q.pass ∧ q'.z = q.z + 1 ∧ q.z + 1 < zproc s q.pass) ∨
          (q.pass = .sep1 ∧ q'.pass = .sep2 ∧ q'.z = 0 ∧ zproc s .sep1 ≤ q.z + 1)))

/-- R135, R137, R138: one step of a lane that has taps left: a tap inside the raster adds its product to ACC modulo
2^ACC_W, a tap outside adds nothing; nothing else changes. That one step handles exactly one tap, in row-major order, and
reads its sample then, is the model's choice within R39, R138 and R42 (log 9, log 30). -/
def Obligations.LaneAddsOneTap : Prop :=
  ∀ (s : State) (q : Seq) (t : ElemType) (k : Nat) (l : Lane),
    s.status.busy = true → s.seq = some q → cmdType s = some t → q.lanes[k]? = some l → l.tap < tapCount s q.pass →
      engineStep (.lane k) s =
        { s with
          seq := some
            { q with
              lanes := q.lanes.set k
                { l with
                  tap := l.tap + 1
                  acc :=
                    if inside (rasterW s) (rasterH s) l.x l.y (tapI (viewW s q.pass) (l.tap % viewW s q.pass))
                        (tapJ (viewH s q.pass) (l.tap / viewW s q.pass)) then
                      wrapS s.params.accW (l.acc +
                        viewCoef s q.pass (l.tap / viewW s q.pass) (l.tap % viewW s q.pass) *
                          passIn s t q.pass q.z
                            ((l.y : Int) + tapJ (viewH s q.pass) (l.tap / viewW s q.pass)).toNat
                            ((l.x : Int) + tapI (viewW s q.pass) (l.tap % viewW s q.pass)).toNat)
                    else l.acc } } }

/-- R140, R143: one step of a lane whose taps are all in ACC, in a run that has met no hazard: the quantized sample is
stored to its place in DST (or IBUF, in pass 1), and the lane goes to the next column with ACC cleared, or its row joins
rows_done. That a sample is quantized and stored whole in one step, and that columns go from left to right, is the model's
choice: R39, R80 and R140 leave both open (log 9). A run that has met a case of R88 stores free bytes instead (log 11). -/
def Obligations.LaneStoresQuantizedSample : Prop :=
  ∀ (s : State) (q : Seq) (t : ElemType) (k : Nat) (l : Lane),
    s.status.busy = true → s.seq = some q → cmdType s = some t → q.lanes[k]? = some l →
    tapCount s q.pass ≤ l.tap → s.hazard.spoiled = false →
      engineStep (.lane k) s =
        { s with
          mem :=
            if q.pass = .sep1 then s.mem
            else storeSample s.mem s.dst t q.z l.y l.x
              (fpq s.params.accW t l.acc (passRshift s q.pass) (passOffset s q.pass))
          ibuf :=
            if q.pass = .sep1 then
              cellSet s.ibuf (ibufIndex s q.z l.y l.x) (fpq s.params.accW t l.acc 0 0)
            else s.ibuf
          seq := some (
            if l.x + 1 < rasterW s then
              { q with lanes := q.lanes.set k { y := l.y, x := l.x + 1, tap := 0, acc := 0 } }
            else { q with rowsDone := insertRising l.y q.rowsDone, lanes := q.lanes.eraseIdx k }) }

/-- R39 item 2: a lane that holds no row takes a row that is not done and that no other lane holds, with ACC cleared. That
it starts at column 0 is the model's choice (log 9), and so is the second clause, that a take which is not enabled changes
nothing (log 10): R39 has no such step. -/
def Obligations.LaneTakesFreeRow : Prop :=
  ∀ (s : State) (q : Seq) (y : Nat), s.status.busy = true → s.seq = some q →
    (y < rasterH s → q.lanes.length < s.params.nlanes → y ∉ q.rowsDone → (∀ l ∈ q.lanes, l.y ≠ y) →
      engineStep (.take y) s =
        { s with seq := some { q with lanes := q.lanes ++ [{ y := y, x := 0, tap := 0, acc := 0 }] } }) ∧
    ((rasterH s ≤ y ∨ s.params.nlanes ≤ q.lanes.length ∨ y ∈ q.rowsDone ∨ ∃ l ∈ q.lanes, l.y = y) →
      engineStep (.take y) s = s)

/-! ## The register port -/

/-- R43: what reset leaves, where the spec gives a value, as the host reads it. -/
def Obligations.ResetValues : Prop :=
  readOffset State.reset 0x000 = 0x434E5637#32 ∧ readOffset State.reset 0x004 = 0x000F1020#32 ∧
  readOffset State.reset 0x008 = 0x00010000#32 ∧
  (∀ r : Reg, (∀ n, r ≠ .kaCoef n) → (∀ n, r ≠ .kbCoef n) → r ≠ .id → r ≠ .cap → r ≠ .ibufcap →
    readReg State.reset r = 0x00000000#32) ∧
  engineState State.reset.status = .idle ∧ State.reset.seq = none ∧ irq State.reset = false

/-- R209, R252: a write to CTRL in any state. With bit 31 set and BUSY 0 it is the soft reset: every register at its reset
value, the coefficient entries and raster memory kept. Otherwise the two enables are written and nothing else happens.
CMDL after the soft reset is the model's choice (log 7). -/
def Obligations.CtrlWriteAndSoftReset : Prop :=
  ∀ (s : State) (v : Word) (rest : List Move), s.moves = .wr 0x00C 4 v :: rest →
    ((v.getLsbD 31 = true ∧ s.status.busy = false) →
      step s = .next
        { State.reset with
          params := s.params
          kaCoef := s.kaCoef
          kbCoef := s.kbCoef
          mem := s.mem
          rdata := s.rdata
          moves := rest
          freeCount := s.freeCount }) ∧
    ((v.getLsbD 31 = false ∨ s.status.busy = true) →
      step s = .next { s with ctrl := { ieDone := v.getLsbD 0, ieErr := v.getLsbD 1 }, moves := rest })

/-- R250, R251: hardware reset: every register but the banks at its reset value; raster memory unchanged, except that a
reset during a run leaves FP(DST, T) of the stopped command open (log 12). -/
def Obligations.HardwareResetState : Prop :=
  ∀ (s : State) (rest : List Move), Memory.wf s.mem = true → s.moves = .hardwareReset :: rest →
    ∃ u, step s = .next u ∧ u.params = s.params ∧ u.moves = rest ∧ u.rdata = s.rdata ∧ u.ctrl = Ctrl.zero ∧
      u.status = Status.zero ∧ u.offset = 0 ∧ u.src = Descriptor.zero ∧ u.dst = Descriptor.zero ∧
      u.kaDim = KDim.zero ∧ u.kbDim = KDim.zero ∧ u.seq = none ∧ irq u = false ∧
      (s.status.busy = false → u.mem = s.mem) ∧
      ∀ t, cmdType s = some t → UnchangedOutside s u t

/-- R208: a write to STATUS while BUSY is 0 clears DONE if its bit 1 is set and changes nothing else; while BUSY is 1 it is
ignored. -/
def Obligations.StatusWrite : Prop :=
  ∀ (s : State) (v : Word) (rest : List Move), s.moves = .wr 0x010 4 v :: rest →
    (s.status.busy = false → v.getLsbD 1 = true →
      step s = .next { s with status := { s.status with done := false }, moves := rest }) ∧
    ((s.status.busy = true ∨ v.getLsbD 1 = false) → step s = .next { s with moves := rest })

/-- R203: while BUSY is 1 every register write except a write to CTRL is dropped, not queued and no error. -/
def Obligations.BusyLock : Prop :=
  ∀ (s : State) (off : Nat) (v : Word) (rest : List Move),
    s.status.busy = true → off % 4 = 0 → off < 4096 → off ≠ 0x00C → s.moves = .wr off 4 v :: rest →
      step s = .next { s with moves := rest }

/-- What a read of each register at its offset returns (R201), and the formats in which the registers read (R24, R26, R28,
R31, R32, R33, R109). -/
def Obligations.RegisterReadFormats : Prop :=
  ∀ s : State,
    (∀ (r : Reg) (rest : List Move), s.moves = .rd (regOffset r) 4 :: rest →
      step s = .next { s with rdata := readReg s r, moves := rest }) ∧
    ((readReg s .status).getLsbD 0 = s.status.busy ∧ (readReg s .status).getLsbD 1 = s.status.done ∧
      (readReg s .status).getLsbD 2 = s.status.err ∧ (readReg s .status).getLsbD 3 = false ∧
      (readReg s .status).extractLsb' 4 4 = s.status.cause ∧ (readReg s .status).extractLsb' 8 24 = 0#24) ∧
    ((readReg s .ctrl).getLsbD 0 = s.ctrl.ieDone ∧ (readReg s .ctrl).getLsbD 1 = s.ctrl.ieErr ∧
      (readReg s .ctrl).extractLsb' 2 30 = 0#30) ∧
    readReg s .cmd = 0#32 ∧
    ((readReg s .srcSize).extractLsb' 0 16 = s.src.w ∧ (readReg s .srcSize).extractLsb' 16 16 = s.src.h) ∧
    ((readReg s .dstSize).extractLsb' 0 16 = s.dst.w ∧ (readReg s .dstSize).extractLsb' 16 16 = s.dst.h) ∧
    (readReg s .srcBands).toNat = s.src.z.toNat ∧ (readReg s .dstBands).toNat = s.dst.z.toNat ∧
    (readReg s .kaDim).toNat = s.kaDim.kw.toNat + 256 * s.kaDim.kh.toNat ∧
    (readReg s .kbDim).toNat = s.kbDim.kw.toNat + 256 * s.kbDim.kh.toNat ∧
    (∀ n, (readReg s (.kaCoef n)).toInt = s.kaCoef[n].toInt) ∧
    (∀ n, (readReg s (.kbCoef n)).toInt = s.kbCoef[n].toInt) ∧
    (s.params.accW < 256 → (readReg s .cap).toNat = s.params.accW + 16 * 256 + 15 * 65536)

/-- R202, R206, R110: a step that writes a register at its offset is that register's write, and what a read at that offset
gives after it while BUSY is 0. -/
def Obligations.ReadAfterRegisterWrite : Prop :=
  ∀ (s : State) (v : Word), s.status.busy = false →
    (∀ (r : Reg) (rest : List Move), r ≠ .cmd → s.moves = .wr (regOffset r) 4 v :: rest →
      step s = .next (writeReg r v { s with moves := rest })) ∧
    (∀ (u : State) (r : Reg), readOffset u (regOffset r) = readReg u r) ∧
    (∀ r ∈ [Reg.offset, .srcBase, .srcRstride, .srcBstride, .srcSize, .dstBase, .dstRstride, .dstBstride, .dstSize],
      readReg (writeReg r v s) r = v) ∧
    (∀ r ∈ [Reg.srcBands, .dstBands], readReg (writeReg r v s) r = v &&& 0x0000FFFF#32) ∧
    (∀ r ∈ [Reg.kaDim, .kbDim], readReg (writeReg r v s) r = v &&& 0x00000F0F#32) ∧
    (∀ n, readReg (writeReg (.kaCoef n) v s) (.kaCoef n) = (v.setWidth 16).signExtend 32) ∧
    (∀ n, readReg (writeReg (.kbCoef n) v s) (.kbCoef n) = (v.setWidth 16).signExtend 32) ∧
    (∀ r ∈ [Reg.id, .cap, .ibufcap], writeReg r v s = s)

/-- What a write to a register other than CTRL and CMD leaves unchanged: every other register as it is read, CMDL, IBUF,
SEQ, raster memory, and the model's own fields; said of the operation, and of the step that writes at the register's
offset. -/
def Obligations.RegisterWriteFrame : Prop :=
  (∀ (s : State) (r : Reg) (v : Word) (rest : List Move), r ≠ .ctrl → r ≠ .cmd →
    s.moves = .wr (regOffset r) 4 v :: rest →
      ∃ u, step s = .next u ∧ (∀ r', r' ≠ r → readOffset u (regOffset r') = readOffset s (regOffset r')) ∧
        u.params = s.params ∧ u.ctrl = s.ctrl ∧ (u.status = s.status ∨ r = .status) ∧ u.cmdl = s.cmdl ∧
        u.ibuf = s.ibuf ∧ u.seq = s.seq ∧ u.mem = s.mem ∧ u.hazard = s.hazard ∧ u.rdata = s.rdata ∧ u.moves = rest ∧
        u.freeCount = s.freeCount) ∧
  ∀ (r : Reg) (v : Word) (s : State), r ≠ .ctrl →
    (∀ r', r' ≠ r → readReg (writeReg r v s) r' = readReg s r') ∧
      (writeReg r v s).params = s.params ∧ (writeReg r v s).ctrl = s.ctrl ∧
      ((writeReg r v s).status = s.status ∨ r = .status) ∧
      (writeReg r v s).cmdl = s.cmdl ∧ (writeReg r v s).ibuf = s.ibuf ∧ (writeReg r v s).seq = s.seq ∧
      (writeReg r v s).mem = s.mem ∧ (writeReg r v s).hazard = s.hazard ∧ (writeReg r v s).rdata = s.rdata ∧
      (writeReg r v s).moves = s.moves ∧ (writeReg r v s).freeCount = s.freeCount

/-- R34: the reserved offsets of the window read 0 and ignore writes, in every state. -/
def Obligations.ReservedOffsets : Prop :=
  ∀ (s : State) (off : Nat) (v : Word) (rest : List Move), off % 4 = 0 →
    (off = 0x01C ∨ (0x034 ≤ off ∧ off ≤ 0x03C) ∨ (0x054 ≤ off ∧ off ≤ 0x05C) ∨ (0x068 ≤ off ∧ off ≤ 0x3FC) ∨
      (0xC00 ≤ off ∧ off ≤ 0xFFC)) →
      (s.moves = .rd off 4 :: rest → step s = .next { s with rdata := 0#32, moves := rest }) ∧
      (s.moves = .wr off 4 v :: rest → step s = .next { s with moves := rest })

/-- R22, R33: the register map, offset by offset; every register sits at an offset of the window that is a multiple of 4,
the access at that offset is to that register, and no other offset is. -/
def Obligations.RegisterMap : Prop :=
  (regAt 0x000 = some .id ∧ regAt 0x004 = some .cap ∧ regAt 0x008 = some .ibufcap ∧ regAt 0x00C = some .ctrl ∧
    regAt 0x010 = some .status ∧ regAt 0x014 = some .cmd ∧ regAt 0x018 = some .offset) ∧
  (regAt 0x020 = some .srcBase ∧ regAt 0x024 = some .srcRstride ∧ regAt 0x028 = some .srcBstride ∧
    regAt 0x02C = some .srcSize ∧ regAt 0x030 = some .srcBands) ∧
  (regAt 0x040 = some .dstBase ∧ regAt 0x044 = some .dstRstride ∧ regAt 0x048 = some .dstBstride ∧
    regAt 0x04C = some .dstSize ∧ regAt 0x050 = some .dstBands) ∧
  (regAt 0x060 = some .kaDim ∧ regAt 0x064 = some .kbDim) ∧
  (∀ n : Fin 256, regAt (0x400 + 4 * n.val) = some (.kaCoef n) ∧ regAt (0x800 + 4 * n.val) = some (.kbCoef n)) ∧
  (∀ (off : Nat) (r : Reg), regAt off = some r → off = regOffset r) ∧
  ∀ r : Reg, regAt (regOffset r) = some r ∧ regOffset r % 4 = 0 ∧ regOffset r < 4096

/-- R211: a register access that is not an aligned 32-bit access inside the window is refused by name (log 14). -/
def Obligations.UndefinedAccessesRefused : Prop :=
  ∀ (s : State) (off size : Nat) (rest : List Move), (size ≠ 4 ∨ off % 4 ≠ 0 ∨ 4096 ≤ off) →
    (s.moves = .rd off size :: rest → step s = .refused .undefinedPortAccess) ∧
    ∀ v, s.moves = .wr off size v :: rest → step s = .refused .undefinedPortAccess

/-- R201: a register read is allowed in every state, gives the host the word, and changes no state of the block. -/
def Obligations.RegisterReadChangesNothing : Prop :=
  ∀ (s : State) (off : Nat) (rest : List Move), off % 4 = 0 → off < 4096 → s.moves = .rd off 4 :: rest →
    step s = .next { s with rdata := readOffset s off, moves := rest }

/-- R234: the interrupt output: deasserted after reset, asserted by completion exactly if IE_DONE is set, by a violation
exactly if IE_ERR is set, and never while a command runs. -/
def Obligations.InterruptOutput : Prop :=
  irq State.reset = false ∧
  (∀ s u : State, s.StatusOk → s.status.err = false → CompletedFrom s u → irq u = u.ctrl.ieDone) ∧
  (∀ (s : State) (c : BitVec 4), irq (refusedWith c s) = s.ctrl.ieErr) ∧
  ∀ s : State, s.StatusOk → s.status.busy = true → irq s = false

/-! ## Arithmetic -/

/-- R133: the closed form of the tap bounds of R132. -/
def Obligations.TapBoundsClosedForm : Prop :=
  (∀ r : Nat, tapNeg (2 * r + 1) = -(r : Int) ∧ tapPos (2 * r + 1) = (r : Int) + 1) ∧
  (∀ r : Nat, tapNeg (2 * r) = -((r : Int) - 1) ∧ tapPos (2 * r) = (r : Int) + 1) ∧
  ∀ d : Nat, tapPos d - tapNeg d = (d : Int)

/-- R138, R139: ACC after every tap of a sample is the exact sum of the contributing products reduced modulo 2^ACC_W. -/
def Obligations.TapSumWrapsExactSum : Prop :=
  ∀ (accW w h kw kh : Nat) (coef inp : Nat → Nat → Int) (x y : Nat), 0 < accW →
    tapSum accW w h kw kh coef inp x y = wrapS accW (exactSum w h kw kh coef inp x y)

/-- R139: the sufficient condition for no wrap at any output sample. -/
def Obligations.NoWrapUnderBound : Prop :=
  ∀ (accW w h kw kh : Nat) (coef inp : Nat → Nat → Int) (t : ElemType) (x y : Nat), 0 < accW →
    (∀ yy xx, tMin t ≤ inp yy xx ∧ inp yy xx ≤ tMax t) →
    (((List.range kh).map fun ky => ((List.range kw).map fun kx => |coef ky kx|).sum).sum) * max |tMin t| (tMax t)
      ≤ accMax accW →
      tapSum accW w h kw kh coef inp x y = exactSum w h kw kh coef inp x y

/-- R186, R188: under the width check do_clip holds, FPQ is the clamp of the floor shift plus the offset, narrowed, and the
value read back from the stored sample is that clamp; it lies in T's range, so a stored value never wraps. -/
def Obligations.QuantizerClosedForm : Prop :=
  ∀ (accW : Nat) (t : ElemType) (sum : Int) (rshift : Nat) (offset : Int), elemBits t < accW →
    doClip accW t = true ∧
      fpq accW t sum rshift offset = lowN (elemBits t) (clamp (floorShr sum rshift + offset) (tMin t) (tMax t)) ∧
      valT t (fpq accW t sum rshift offset) = clamp (floorShr sum rshift + offset) (tMin t) (tMax t) ∧
      tMin t ≤ valT t (fpq accW t sum rshift offset) ∧ valT t (fpq accW t sum rshift offset) ≤ tMax t

/-- R183 item 3: a shift by ACC_W - 1 or more gives 0 or -1. -/
def Obligations.ShiftBeyondWidth : Prop :=
  ∀ (accW : Nat) (sum : Int) (rshift : Nat), 0 < accW → accMin accW ≤ sum → sum ≤ accMax accW → accW - 1 ≤ rshift →
    (0 ≤ sum → floorShr sum rshift = 0) ∧ (sum < 0 → floorShr sum rshift = -1)

/-- R168: where every row sum of pass 1 lies in T's range, CONVSEP stores what the dense convolution with the outer product
of the two row vectors stores, at the borders too. (R168's condition (b) is not needed: both sums wrap alike.) -/
def Obligations.SeparableEqualsDense : Prop :=
  ∀ (s : State) (t : ElemType) (r z y x : Nat), elemBits t < s.params.accW → y < rasterH s → x < rasterW s →
    (∀ yy xx, yy < rasterH s → xx < rasterW s → tMin t ≤ rowSum s t z yy xx ∧ rowSum s t z yy xx ≤ tMax t) →
      columnSum s t z y x = outerSum s t z y x ∧
        sepPattern s t r z y x =
          fpq s.params.accW t (wrapS s.params.accW (outerSum s t z y x)) r (offsetVal s)

/-- R145: the number of contributing taps of a (2r+1) x (2r+1) kernel. -/
def Obligations.ContributingTapCount : Prop :=
  ∀ w h r x y : Nat, x < w → y < h →
    exactSum w h (2 * r + 1) (2 * r + 1) (fun _ _ => 1) (fun _ _ => 1) x y =
      (((min x r + 1 + min (w - 1 - x) r) * (min y r + 1 + min (h - 1 - y) r) : Nat) : Int)

/-- The source's identity property (95_test_vectors.md S1): a 1 x 1 kernel of coefficient 1 with rshift 0 and offset 0
stores each source sample unchanged. -/
def Obligations.IdentityKernelCopies : Prop :=
  ∀ (s : State) (t : ElemType) (k : Bank) (z y x : Nat), elemBits t < s.params.accW → x < rasterW s → y < rasterH s →
    bankDim s k = { kw := 1, kh := 1 } → bankCoef s k 0 0 = 1 → s.offset = 0 →
      densePattern s t k 0 z y x = memRead s.mem (sampleAddr s.src t z y x) (elemBytes t)

/-- R149 row 3: with an empty kernel every destination sample receives clamp(offset). -/
def Obligations.EmptyKernelStoresOffset : Prop :=
  ∀ (s : State) (t : ElemType) (k : Bank) (r z y x : Nat), elemBits t < s.params.accW →
    ((bankDim s k).kw = 0 ∨ (bankDim s k).kh = 0) →
      densePattern s t k r z y x = lowN (elemBits t) (clamp (offsetVal s) (tMin t) (tMax t))

/-! ## Raster memory -/

/-- R76, R89: MemRead after MemWrite at the same address gives the low 8n bits of the pattern, and every byte outside the
access reads as before, wherever the access lies (it may wrap past 2^32). -/
def Obligations.MemReadAfterMemWrite : Prop :=
  ∀ (m : List Host.Cell) (a n : Nat) (p : BitVec 32), Memory.wf m = true → n ≤ 4 →
    (memRead (memWrite m a n p) a n).toNat = p.toNat % 2 ^ (8 * n) ∧
      ∀ c, wrapAddr c ∉ accessBytes a n → readByte (memWrite m a n p) c = readByte m c

/-- R77, R78, R79: a loaded sample lies in T's range; a stored pattern loads back as its value; other bytes stay. No
alignment is asked. -/
def Obligations.SampleLoadAndStore : Prop :=
  ∀ (m : List Host.Cell) (d : Descriptor) (t : ElemType) (z y x : Nat) (p : BitVec 32), Memory.wf m = true →
    (tMin t ≤ loadSample m d t z y x ∧ loadSample m d t z y x ≤ tMax t) ∧
      loadSample (storeSample m d t z y x p) d t z y x = valT t p ∧
      ∀ c, c < memSize → c ∉ sampleBytes d t z y x → readByte (storeSample m d t z y x p) c = readByte m c

/-- R258 item 2: a dense layout with no wrap-around makes the destination samples distinct. -/
def Obligations.DenseLayoutSeparatesSamples : Prop :=
  ∀ (d : Descriptor) (t : ElemType), DenseLayout d t → (footprint d t d.z.toNat).Nodup

/-- R44, R88: a write of raster memory by the host or another agent writes that byte and changes no state of the block;
during a run a byte of FP(SRC, T) makes all of FP(DST, T) UNPREDICTABLE and a byte of FP(DST, T) makes itself so, which the
model notes (log 11). An address of 2^32 or more faults (log 15). -/
def Obligations.HostMemoryWrite : Prop :=
  ∀ (s : State) (a : Nat) (b : Byte) (rest : List Move), s.moves = .memWrite a b :: rest →
    (memSize ≤ a → step s = .fault .addressOutsideMemory) ∧
    (a < memSize →
      ∃ u, step s = .next u ∧ SameOperands s u ∧ u.status = s.status ∧ u.cmdl = s.cmdl ∧ u.seq = s.seq ∧
        u.ibuf = s.ibuf ∧ u.rdata = s.rdata ∧ u.moves = rest ∧ u.freeCount = s.freeCount ∧
        (Memory.wf s.mem = true →
          ∀ c, c < memSize → readByte u.mem c = if c = a then b else readByte s.mem c) ∧
        (s.status.busy = false → u.hazard = s.hazard) ∧
        ∀ t, s.status.busy = true → cmdType s = some t →
          (a ∈ footprint s.src t s.src.z.toNat → u.hazard.spoiled = true) ∧
          (a ∈ footprint s.dst t s.dst.z.toNat → a ∈ u.hazard.touched))

/-! ## The host notation -/

/-- R115: the pseudo-instructions always write OFFSET first, an omitted operand being 0, and then issue the command; an
rshift outside R114's range and a coefficient outside R110's range are refused (log 23). R116: the five writes of `raster`,
with `<h> << 16 | <w>` in the SIZE register. A value that does not fit 32 bits is reduced modulo 2^32, the model's choice
(log 31). -/
def Obligations.PseudoInstructionsWriteOffset : Prop :=
  (∀ (t : ElemType) (k : Bank) (r : Option Nat) (o : Option Int), r.getD 0 < 64 →
    assemble (.convolve t k r o) =
      some [.wr 0x018 4 (BitVec.ofInt 32 (o.getD 0)), .wr 0x014 4 (encode (.conv t.etype k (r.getD 0)))]) ∧
  (∀ (t : ElemType) (r : Option Nat) (o : Option Int), r.getD 0 < 64 →
    assemble (.convolveSeparable t r o) =
      some [.wr 0x018 4 (BitVec.ofInt 32 (o.getD 0)), .wr 0x014 4 (encode (.convsep t.etype (r.getD 0)))]) ∧
  (∀ (t : ElemType) (k : Bank) (r : Nat) (o : Option Int), 64 ≤ r →
    assemble (.convolve t k (some r) o) = none ∧ assemble (.convolveSeparable t (some r) o) = none ∧
      assemble (.conv t k r) = none ∧ assemble (.convsep t r) = none) ∧
  (∀ (k : Bank) (x y : Nat) (v : Int), (v < -32768 ∨ 32767 < v) → assemble (.kset k x y v) = none) ∧
  ∀ base w h z rstride bstride : Int,
    assemble (.raster .src base w h z rstride bstride) =
      some [.wr 0x020 4 (BitVec.ofInt 32 base), .wr 0x024 4 (BitVec.ofInt 32 rstride),
        .wr 0x028 4 (BitVec.ofInt 32 bstride), .wr 0x02C 4 (BitVec.ofInt 32 h <<< 16 ||| BitVec.ofInt 32 w),
        .wr 0x030 4 (BitVec.ofInt 32 z)] ∧
    assemble (.raster .dst base w h z rstride bstride) =
      some [.wr 0x040 4 (BitVec.ofInt 32 base), .wr 0x044 4 (BitVec.ofInt 32 rstride),
        .wr 0x048 4 (BitVec.ofInt 32 bstride), .wr 0x04C 4 (BitVec.ofInt 32 h <<< 16 ||| BitVec.ofInt 32 w),
        .wr 0x050 4 (BitVec.ofInt 32 z)]
end

