-- ==== Sys2Proof/Laws/Arith.lean ====
section
/-! SUPPORT. Ranges of the pure helper functions: what wrapS, clamp and FPQ's clip step can answer. -/

namespace Sys2Proof.Machine

/-- 0 is a value of the accumulator. -/
theorem accMin_le_zero_le_accMax (n : Nat) : accMin n ≤ 0 ∧ 0 ≤ accMax n := by
  have : (0 : Int) < 2 ^ (n - 1) := by positivity
  unfold accMin accMax
  push_cast
  omega

/-- wrapS answers an N-bit two's-complement value (R9). -/
theorem wrapS_range {n : Nat} (h : 0 < n) (v : Int) : accMin n ≤ wrapS n v ∧ wrapS n v ≤ accMax n := by
  have h2 : (2 : Int) ^ n = 2 * 2 ^ (n - 1) := by
    obtain ⟨m, rfl⟩ : ∃ m, n = m + 1 := ⟨n - 1, by omega⟩
    simp [pow_succ]
    ring
  have hp : (0 : Int) < 2 ^ (n - 1) := by positivity
  unfold wrapS accMin accMax
  constructor
  · have := @Int.le_bmod v (2 ^ n) (by positivity)
    push_cast at *
    omega
  · have := @Int.bmod_lt v (2 ^ n) (by positivity)
    push_cast at *
    omega

/-- The ranges of the element types are not empty, and 0 is a value of each (R103). -/
theorem tMin_le_zero_le_tMax (t : ElemType) : tMin t ≤ 0 ∧ 0 ≤ tMax t := by
  cases t <;> decide

/-- clamp answers a value of the range (R9). -/
theorem clamp_range {v lo hi : Int} (h : lo ≤ hi) : lo ≤ clamp v lo hi ∧ clamp v lo hi ≤ hi := by
  unfold clamp
  split
  · omega
  · split <;> omega

/-- clamp leaves a value of the range as it is. -/
theorem clamp_of_range {v lo hi : Int} (h1 : lo ≤ v) (h2 : v ≤ hi) : clamp v lo hi = v := by
  unfold clamp
  split
  · omega
  · split <;> omega

/-- The scale step is the same expression when there is nothing to scale: the shift by 0 and the offset 0 change nothing
(R182). -/
theorem fpqScale_eq (sum : Int) (rshift : Nat) (offset : Int) :
    fpqScale sum rshift offset = floorShr sum rshift + offset := by
  unfold fpqScale doScale
  split
  · rfl
  · rename_i h
    simp only [decide_eq_true_eq, not_or, not_not] at h
    simp [floorShr, h.1, h.2]

end Sys2Proof.Machine
end

