-- ==== Sys2Proof/Laws/Decode.lean ====
section
/-! SUPPORT. Laws of the command word's fields: a field of an assembled word is what was put there, in the 32-bit word and
in the 14 bits that CMDL keeps. -/

namespace Sys2Proof

/-- The code of an element type survives its field (R103). -/
@[simp] theorem etypeOfField_etypeField (e : EType) : etypeOfField (etypeField e) = e := by cases e <;> rfl

/-- The bank survives its field (R105). -/
@[simp] theorem bankOfField_bankField (bank : Bank) : bankOfField (bankField bank) = bank := by
  cases bank <;> rfl

/-- The element type survives its code (R103). -/
@[simp] theorem etype_elem? (t : ElemType) : t.etype.elem? = some t := by cases t <;> rfl

section Fields

variable (op : BitVec 4) (e : BitVec 3) (k : BitVec 1) (r : BitVec 6)

@[simp] theorem opField_assembleWord : opField (assembleWord op e k r) = op := by
  apply BitVec.eq_of_getLsbD_eq
  intro i hi
  simp only [opField, assembleWord, BitVec.getLsbD_extractLsb', BitVec.getLsbD_append]
  interval_cases i <;> simp

@[simp] theorem etypeBits_assembleWord : etypeBits (assembleWord op e k r) = e := by
  apply BitVec.eq_of_getLsbD_eq
  intro i hi
  simp only [etypeBits, assembleWord, BitVec.getLsbD_extractLsb', BitVec.getLsbD_append]
  interval_cases i <;> simp

@[simp] theorem kselBit_assembleWord : kselBit (assembleWord op e k r) = k := by
  apply BitVec.eq_of_getLsbD_eq
  intro i hi
  simp only [kselBit, assembleWord, BitVec.getLsbD_extractLsb', BitVec.getLsbD_append]
  interval_cases i; simp

@[simp] theorem rshiftBits_assembleWord : rshiftBits (assembleWord op e k r) = r := by
  apply BitVec.eq_of_getLsbD_eq
  intro i hi
  simp only [rshiftBits, assembleWord, BitVec.getLsbD_extractLsb', BitVec.getLsbD_append]
  interval_cases i <;> simp

@[simp] theorem reservedBits_assembleWord : reservedBits (assembleWord op e k r) = 0#18 := by
  apply BitVec.eq_of_getLsbD_eq
  intro i hi
  simp only [reservedBits, assembleWord, BitVec.getLsbD_extractLsb', BitVec.getLsbD_append]
  have h1 : ¬ 14 + i < 4 := by omega
  have h2 : ¬ 14 + i - 4 < 3 := by omega
  have h3 : ¬ 14 + i - 4 - 3 < 1 := by omega
  have h4 : ¬ 14 + i - 4 - 3 - 1 < 6 := by omega
  simp [h1, h2, h3, h4]

/-- CMDL keeps the ETYPE field of a word (R30). -/
@[simp] theorem latched_etype : ((assembleWord op e k r).setWidth 14).extractLsb' 4 3 = e := by
  apply BitVec.eq_of_getLsbD_eq
  intro i hi
  simp only [BitVec.getLsbD_extractLsb', BitVec.getLsbD_setWidth, assembleWord, BitVec.getLsbD_append]
  interval_cases i <;> simp

/-- CMDL keeps the KSEL field of a word (R30). -/
@[simp] theorem latched_ksel : ((assembleWord op e k r).setWidth 14).extractLsb' 7 1 = k := by
  apply BitVec.eq_of_getLsbD_eq
  intro i hi
  simp only [BitVec.getLsbD_extractLsb', BitVec.getLsbD_setWidth, assembleWord, BitVec.getLsbD_append]
  interval_cases i; simp

/-- CMDL keeps the RSHIFT field of a word (R30). -/
@[simp] theorem latched_rshift : ((assembleWord op e k r).setWidth 14).extractLsb' 8 6 = r := by
  apply BitVec.eq_of_getLsbD_eq
  intro i hi
  simp only [BitVec.getLsbD_extractLsb', BitVec.getLsbD_setWidth, assembleWord, BitVec.getLsbD_append]
  interval_cases i <;> simp

end Fields

end Sys2Proof
end

