-- ==== Sys2Proof/Laws/Memory.lean ====
section
/-! SUPPORT. Laws of the sparse stores and of raster memory: read after write, writes elsewhere, and the canonical form. -/

namespace Sys2Proof.Machine

section Cells

variable {w : Nat}

theorem cellGet_cellCons (a : Nat) (v : BitVec w) (rest : List (Nat × BitVec w)) (b : Nat)
    (h : cellGet rest a = unlisted) :
    cellGet (cellCons a v rest) b = if b = a then v else cellGet rest b := by
  unfold cellCons
  split
  · rename_i hv
    split
    · subst_vars; exact h
    · rfl
  · simp only [cellGet]
    by_cases hab : a = b
    · simp [hab]
    · simp [hab, Ne.symm hab]

/-- An index below every listed one is unlisted. -/
theorem cellGet_of_above {l : List (Nat × BitVec w)} {lo a : Nat} (h : cellsAbove (some lo) l = true) (ha : a ≤ lo) :
    cellGet l a = unlisted := by
  induction l generalizing lo with
  | nil => rfl
  | cons c rest ih =>
    obtain ⟨k, v⟩ := c
    simp only [cellsAbove, Bool.and_eq_true, decide_eq_true_eq] at h
    have hk : k ≠ a := by omega
    simp [cellGet, hk, ih h.2 (by omega)]

theorem cellsAbove_cons {lo : Option Nat} {k : Nat} {v : BitVec w} {rest : List (Nat × BitVec w)} :
    cellsAbove lo ((k, v) :: rest) = true ↔
      (∀ b, lo = some b → b < k) ∧ v ≠ unlisted ∧ cellsAbove (some k) rest = true := by
  cases lo <;> simp [cellsAbove, and_assoc]

theorem cellsAbove_weaken {lo lo' : Option Nat} {l : List (Nat × BitVec w)} (h : cellsAbove lo l = true)
    (hle : ∀ b, lo' = some b → ∃ c, lo = some c ∧ b ≤ c) : cellsAbove lo' l = true := by
  cases l with
  | nil => cases lo' <;> rfl
  | cons c rest =>
    obtain ⟨k, v⟩ := c
    rw [cellsAbove_cons] at h ⊢
    refine ⟨fun b hb => ?_, h.2⟩
    obtain ⟨d, hd, hbd⟩ := hle b hb
    exact Nat.lt_of_le_of_lt hbd (h.1 d hd)

theorem cellsAbove_cellCons {lo : Option Nat} {a : Nat} {v : BitVec w} {rest : List (Nat × BitVec w)}
    (hlo : ∀ b, lo = some b → b < a) (h : cellsAbove (some a) rest = true) :
    cellsAbove lo (cellCons a v rest) = true := by
  unfold cellCons
  split
  · exact cellsAbove_weaken h fun b hb => ⟨a, rfl, Nat.le_of_lt (hlo b hb)⟩
  · rename_i hv
    exact cellsAbove_cons.2 ⟨hlo, hv, h⟩

theorem cellsAbove_cellSet {lo : Option Nat} {l : List (Nat × BitVec w)} {a : Nat} {v : BitVec w}
    (h : cellsAbove lo l = true) (hlo : ∀ b, lo = some b → b < a) : cellsAbove lo (cellSet l a v) = true := by
  induction l generalizing lo with
  | nil => exact cellsAbove_cellCons hlo rfl
  | cons c rest ih =>
    obtain ⟨k, u⟩ := c
    obtain ⟨h1, h2, h3⟩ := cellsAbove_cons.1 h
    unfold cellSet
    split
    · rename_i hak
      exact cellsAbove_cellCons hlo (cellsAbove_cons.2 ⟨fun b hb => by cases hb; exact hak, h2, h3⟩)
    · split
      · rename_i hak
        subst hak
        exact cellsAbove_cellCons hlo h3
      · rename_i h4 h5
        refine cellsAbove_cons.2 ⟨h1, h2, ih h3 fun b hb => ?_⟩
        cases hb
        omega

/-- Every write keeps the canonical form. -/
theorem cellSet_wf {l : List (Nat × BitVec w)} (h : cellsWf l = true) (a : Nat) (v : BitVec w) :
    cellsWf (cellSet l a v) = true :=
  cellsAbove_cellSet h (by simp)

theorem cellGet_cellSet_above {lo : Option Nat} {l : List (Nat × BitVec w)} (h : cellsAbove lo l = true) (a b : Nat)
    (v : BitVec w) : cellGet (cellSet l a v) b = if b = a then v else cellGet l b := by
  induction l generalizing lo with
  | nil => exact cellGet_cellCons a v [] b rfl
  | cons c rest ih =>
    obtain ⟨k, u⟩ := c
    obtain ⟨h1, h2, h3⟩ := cellsAbove_cons.1 h
    unfold cellSet
    split
    · rename_i hak
      refine cellGet_cellCons a v _ b ?_
      have : k ≠ a := by omega
      simp [cellGet, this, cellGet_of_above h3 (Nat.le_of_lt hak)]
    · split
      · rename_i hak
        subst hak
        rw [cellGet_cellCons a v rest b (cellGet_of_above h3 (Nat.le_refl _))]
        by_cases hb : b = a
        · simp [hb]
        · simp [cellGet, hb, Ne.symm hb]
      · rename_i h4 h5
        simp only [cellGet, ih h3]
        by_cases hkb : k = b
        · have : b ≠ a := by omega
          simp [hkb, this]
        · simp [hkb]

/-- Read after write, in a canonical store: the index written reads the value, every other reads as before. -/
theorem cellGet_cellSet {l : List (Nat × BitVec w)} (h : cellsWf l = true) (a b : Nat) (v : BitVec w) :
    cellGet (cellSet l a v) b = if b = a then v else cellGet l b :=
  cellGet_cellSet_above h a b v

theorem mem_cellCons {a : Nat} {v : BitVec w} {rest : List (Nat × BitVec w)} {c : Nat × BitVec w}
    (h : c ∈ cellCons a v rest) : c = (a, v) ∨ c ∈ rest := by
  unfold cellCons at h
  split at h
  · exact .inr h
  · simpa using h

/-- A listed entry of a written store was listed before or is the one written. -/
theorem mem_cellSet {l : List (Nat × BitVec w)} {a : Nat} {v : BitVec w} {c : Nat × BitVec w}
    (h : c ∈ cellSet l a v) : c = (a, v) ∨ c ∈ l := by
  induction l with
  | nil => exact (mem_cellCons h).imp id (by simp)
  | cons d rest ih =>
    obtain ⟨k, u⟩ := d
    unfold cellSet at h
    split at h
    · exact mem_cellCons h
    · split at h
      · exact (mem_cellCons h).imp id (List.mem_cons_of_mem _)
      · rcases List.mem_cons.1 h with h | h
        · exact .inr (h ▸ List.mem_cons_self ..)
        · exact (ih h).imp id (List.mem_cons_of_mem _)

/-- An index that is not listed reads as unlisted, and a listed one was listed with its value. -/
theorem cellGet_eq_unlisted_or_mem (l : List (Nat × BitVec w)) (a : Nat) :
    cellGet l a = unlisted ∨ (a, cellGet l a) ∈ l := by
  induction l with
  | nil => exact .inl rfl
  | cons c rest ih =>
    obtain ⟨k, v⟩ := c
    by_cases h : k = a
    · subst h; simp [cellGet]
    · simpa [cellGet, h] using ih.imp id .inr

end Cells

section Bytes

theorem wrapAddr_lt (a : Nat) : wrapAddr a < memSize := Nat.mod_lt _ (by decide)

theorem wrapAddr_of_lt {a : Nat} (h : a < memSize) : wrapAddr a = a := Nat.mod_eq_of_lt h

@[simp] theorem wrapAddr_wrapAddr (a : Nat) : wrapAddr (wrapAddr a) = wrapAddr a := Nat.mod_mod _ _

theorem wrapAddr_add_left (a b : Nat) : wrapAddr (wrapAddr a + b) = wrapAddr (a + b) := Nat.mod_add_mod _ _ _

@[simp] theorem readByte_wrapAddr (m : List Host.Cell) (a : Nat) : readByte m (wrapAddr a) = readByte m a := by
  simp [readByte]

@[simp] theorem writeByte_wrapAddr (m : List Host.Cell) (a : Nat) (b : Byte) :
    writeByte m (wrapAddr a) b = writeByte m a b := by
  simp [writeByte]

/-- Raster memory in canonical form is a canonical store. -/
theorem Memory.wf_cells {m : List Host.Cell} (h : Memory.wf m = true) : cellsWf m = true := by
  simp only [Memory.wf, Bool.and_eq_true] at h
  exact h.1

/-- Writing a byte keeps the canonical form. -/
theorem writeByte_wf {m : List Host.Cell} (h : Memory.wf m = true) (a : Nat) (b : Byte) :
    Memory.wf (writeByte m a b) = true := by
  simp only [Memory.wf, Bool.and_eq_true, List.all_eq_true, decide_eq_true_eq] at h ⊢
  refine ⟨cellSet_wf h.1 _ _, fun c hc => ?_⟩
  rcases mem_cellSet hc with rfl | hc
  · exact wrapAddr_lt a
  · exact h.2 c hc

/-- A byte written reads back; every other byte reads as before. -/
theorem readByte_writeByte {m : List Host.Cell} (h : Memory.wf m = true) (a c : Nat) (b : Byte) :
    readByte (writeByte m a b) c = if wrapAddr c = wrapAddr a then b else readByte m c :=
  cellGet_cellSet (Memory.wf_cells h) _ _ _

/-- MemWrite keeps the canonical form. -/
theorem memWriteNat_wf {m : List Host.Cell} (h : Memory.wf m = true) (a n p : Nat) :
    Memory.wf (memWriteNat m a n p) = true := by
  induction n generalizing m a p with
  | zero => exact h
  | succ n ih => exact ih (writeByte_wf h _ _) _ _

theorem memWrite_wf {m : List Host.Cell} (h : Memory.wf m = true) (a n : Nat) (p : BitVec 32) :
    Memory.wf (memWrite m a n p) = true :=
  memWriteNat_wf h _ _ _

theorem storeSample_wf {m : List Host.Cell} (h : Memory.wf m = true) (d : Descriptor) (t : ElemType) (z y x : Nat)
    (p : BitVec 32) : Memory.wf (storeSample m d t z y x p) = true :=
  memWrite_wf h _ _ _

/-- Laying down free values keeps the canonical form. -/
theorem scramble_wf {m : List Host.Cell} (h : Memory.wf m = true) (n : Nat) (l : List Nat) :
    Memory.wf (scramble n m l) = true := by
  induction l generalizing m with
  | nil => exact h
  | cons a l ih => exact ih (writeByte_wf h _ _)

theorem mem_accessBytes {a n c : Nat} : c ∈ accessBytes a n ↔ ∃ b < n, c = wrapAddr (a + b) := by
  simp [accessBytes, eq_comm]

theorem accessBytes_succ (a n : Nat) : accessBytes a (n + 1) = wrapAddr a :: accessBytes (a + 1) n := by
  simp [accessBytes, List.range_succ_eq_map, Function.comp_def, Nat.add_comm, Nat.add_left_comm]

/-- MemWrite leaves every byte outside the access as it was. -/
theorem readByte_memWriteNat_of_not_mem {m : List Host.Cell} (h : Memory.wf m = true) (a n p c : Nat)
    (hc : wrapAddr c ∉ accessBytes a n) : readByte (memWriteNat m a n p) c = readByte m c := by
  induction n generalizing m a p with
  | zero => rfl
  | succ n ih =>
    rw [accessBytes_succ, List.mem_cons, not_or] at hc
    rw [memWriteNat, ih (writeByte_wf h _ _) _ _ hc.2, readByte_writeByte h, if_neg hc.1]

/-- Bytes outside the list keep their value when free values are laid down. -/
theorem readByte_scramble_of_not_mem {m : List Host.Cell} (h : Memory.wf m = true) (n : Nat) (l : List Nat) (c : Nat)
    (hc : ∀ a ∈ l, wrapAddr a ≠ wrapAddr c) : readByte (scramble n m l) c = readByte m c := by
  induction l generalizing m with
  | nil => rfl
  | cons a l ih =>
    rw [scramble, List.foldl_cons, ← scramble, ih (writeByte_wf h _ _) fun b hb => hc b (List.mem_cons_of_mem _ hb),
      readByte_writeByte h, if_neg fun e => hc a (List.mem_cons_self ..) e.symm]

end Bytes

end Sys2Proof.Machine
end

