-- ==== Sys2Proof/Laws/State.lean ====
section
/-! SUPPORT. One lemma per field per named update of the state, true by rfl, so that no later proof unfolds a record
update. -/

namespace Sys2Proof.Machine

@[simp] theorem clearDone_params (s : State) : (clearDone s).params = s.params := rfl
@[simp] theorem clearDone_ctrl (s : State) : (clearDone s).ctrl = s.ctrl := rfl
@[simp] theorem clearDone_status (s : State) : (clearDone s).status = { s.status with done := false } := rfl
@[simp] theorem clearDone_cmdl (s : State) : (clearDone s).cmdl = s.cmdl := rfl
@[simp] theorem clearDone_offset (s : State) : (clearDone s).offset = s.offset := rfl
@[simp] theorem clearDone_src (s : State) : (clearDone s).src = s.src := rfl
@[simp] theorem clearDone_dst (s : State) : (clearDone s).dst = s.dst := rfl
@[simp] theorem clearDone_kaDim (s : State) : (clearDone s).kaDim = s.kaDim := rfl
@[simp] theorem clearDone_kbDim (s : State) : (clearDone s).kbDim = s.kbDim := rfl
@[simp] theorem clearDone_kaCoef (s : State) : (clearDone s).kaCoef = s.kaCoef := rfl
@[simp] theorem clearDone_kbCoef (s : State) : (clearDone s).kbCoef = s.kbCoef := rfl
@[simp] theorem clearDone_ibuf (s : State) : (clearDone s).ibuf = s.ibuf := rfl
@[simp] theorem clearDone_seq (s : State) : (clearDone s).seq = s.seq := rfl
@[simp] theorem clearDone_mem (s : State) : (clearDone s).mem = s.mem := rfl
@[simp] theorem clearDone_hazard (s : State) : (clearDone s).hazard = s.hazard := rfl
@[simp] theorem clearDone_rdata (s : State) : (clearDone s).rdata = s.rdata := rfl
@[simp] theorem clearDone_moves (s : State) : (clearDone s).moves = s.moves := rfl
@[simp] theorem clearDone_freeCount (s : State) : (clearDone s).freeCount = s.freeCount := rfl

@[simp] theorem raise_params (c : Cause) (s : State) : (raise c s).params = s.params := rfl
@[simp] theorem raise_ctrl (c : Cause) (s : State) : (raise c s).ctrl = s.ctrl := rfl
@[simp] theorem raise_status (c : Cause) (s : State) : (raise c s).status = { s.status with err := true, cause := causeCode c, done := false } := rfl
@[simp] theorem raise_cmdl (c : Cause) (s : State) : (raise c s).cmdl = s.cmdl := rfl
@[simp] theorem raise_offset (c : Cause) (s : State) : (raise c s).offset = s.offset := rfl
@[simp] theorem raise_src (c : Cause) (s : State) : (raise c s).src = s.src := rfl
@[simp] theorem raise_dst (c : Cause) (s : State) : (raise c s).dst = s.dst := rfl
@[simp] theorem raise_kaDim (c : Cause) (s : State) : (raise c s).kaDim = s.kaDim := rfl
@[simp] theorem raise_kbDim (c : Cause) (s : State) : (raise c s).kbDim = s.kbDim := rfl
@[simp] theorem raise_kaCoef (c : Cause) (s : State) : (raise c s).kaCoef = s.kaCoef := rfl
@[simp] theorem raise_kbCoef (c : Cause) (s : State) : (raise c s).kbCoef = s.kbCoef := rfl
@[simp] theorem raise_ibuf (c : Cause) (s : State) : (raise c s).ibuf = s.ibuf := rfl
@[simp] theorem raise_seq (c : Cause) (s : State) : (raise c s).seq = s.seq := rfl
@[simp] theorem raise_mem (c : Cause) (s : State) : (raise c s).mem = s.mem := rfl
@[simp] theorem raise_hazard (c : Cause) (s : State) : (raise c s).hazard = s.hazard := rfl
@[simp] theorem raise_rdata (c : Cause) (s : State) : (raise c s).rdata = s.rdata := rfl
@[simp] theorem raise_moves (c : Cause) (s : State) : (raise c s).moves = s.moves := rfl
@[simp] theorem raise_freeCount (c : Cause) (s : State) : (raise c s).freeCount = s.freeCount := rfl

@[simp] theorem unpredict_params (l : List Nat) (s : State) : (unpredict l s).params = s.params := rfl
@[simp] theorem unpredict_ctrl (l : List Nat) (s : State) : (unpredict l s).ctrl = s.ctrl := rfl
@[simp] theorem unpredict_status (l : List Nat) (s : State) : (unpredict l s).status = s.status := rfl
@[simp] theorem unpredict_cmdl (l : List Nat) (s : State) : (unpredict l s).cmdl = s.cmdl := rfl
@[simp] theorem unpredict_offset (l : List Nat) (s : State) : (unpredict l s).offset = s.offset := rfl
@[simp] theorem unpredict_src (l : List Nat) (s : State) : (unpredict l s).src = s.src := rfl
@[simp] theorem unpredict_dst (l : List Nat) (s : State) : (unpredict l s).dst = s.dst := rfl
@[simp] theorem unpredict_kaDim (l : List Nat) (s : State) : (unpredict l s).kaDim = s.kaDim := rfl
@[simp] theorem unpredict_kbDim (l : List Nat) (s : State) : (unpredict l s).kbDim = s.kbDim := rfl
@[simp] theorem unpredict_kaCoef (l : List Nat) (s : State) : (unpredict l s).kaCoef = s.kaCoef := rfl
@[simp] theorem unpredict_kbCoef (l : List Nat) (s : State) : (unpredict l s).kbCoef = s.kbCoef := rfl
@[simp] theorem unpredict_ibuf (l : List Nat) (s : State) : (unpredict l s).ibuf = s.ibuf := rfl
@[simp] theorem unpredict_seq (l : List Nat) (s : State) : (unpredict l s).seq = s.seq := rfl
@[simp] theorem unpredict_mem (l : List Nat) (s : State) : (unpredict l s).mem = scramble s.freeCount s.mem l := rfl
@[simp] theorem unpredict_hazard (l : List Nat) (s : State) : (unpredict l s).hazard = s.hazard := rfl
@[simp] theorem unpredict_rdata (l : List Nat) (s : State) : (unpredict l s).rdata = s.rdata := rfl
@[simp] theorem unpredict_moves (l : List Nat) (s : State) : (unpredict l s).moves = s.moves := rfl
@[simp] theorem unpredict_freeCount (l : List Nat) (s : State) : (unpredict l s).freeCount = s.freeCount + 1 := rfl

@[simp] theorem resetRegisters_params (ka kb : Vector Coef 256) (s : State) : (resetRegisters ka kb s).params = s.params := rfl
@[simp] theorem resetRegisters_ctrl (ka kb : Vector Coef 256) (s : State) : (resetRegisters ka kb s).ctrl = Ctrl.zero := rfl
@[simp] theorem resetRegisters_status (ka kb : Vector Coef 256) (s : State) : (resetRegisters ka kb s).status = Status.zero := rfl
@[simp] theorem resetRegisters_cmdl (ka kb : Vector Coef 256) (s : State) : (resetRegisters ka kb s).cmdl = 0 := rfl
@[simp] theorem resetRegisters_offset (ka kb : Vector Coef 256) (s : State) : (resetRegisters ka kb s).offset = 0 := rfl
@[simp] theorem resetRegisters_src (ka kb : Vector Coef 256) (s : State) : (resetRegisters ka kb s).src = Descriptor.zero := rfl
@[simp] theorem resetRegisters_dst (ka kb : Vector Coef 256) (s : State) : (resetRegisters ka kb s).dst = Descriptor.zero := rfl
@[simp] theorem resetRegisters_kaDim (ka kb : Vector Coef 256) (s : State) : (resetRegisters ka kb s).kaDim = KDim.zero := rfl
@[simp] theorem resetRegisters_kbDim (ka kb : Vector Coef 256) (s : State) : (resetRegisters ka kb s).kbDim = KDim.zero := rfl
@[simp] theorem resetRegisters_kaCoef (ka kb : Vector Coef 256) (s : State) : (resetRegisters ka kb s).kaCoef = ka := rfl
@[simp] theorem resetRegisters_kbCoef (ka kb : Vector Coef 256) (s : State) : (resetRegisters ka kb s).kbCoef = kb := rfl
@[simp] theorem resetRegisters_ibuf (ka kb : Vector Coef 256) (s : State) : (resetRegisters ka kb s).ibuf = [] := rfl
@[simp] theorem resetRegisters_seq (ka kb : Vector Coef 256) (s : State) : (resetRegisters ka kb s).seq = none := rfl
@[simp] theorem resetRegisters_mem (ka kb : Vector Coef 256) (s : State) : (resetRegisters ka kb s).mem = s.mem := rfl
@[simp] theorem resetRegisters_hazard (ka kb : Vector Coef 256) (s : State) : (resetRegisters ka kb s).hazard = Hazard.none := rfl
@[simp] theorem resetRegisters_rdata (ka kb : Vector Coef 256) (s : State) : (resetRegisters ka kb s).rdata = s.rdata := rfl
@[simp] theorem resetRegisters_moves (ka kb : Vector Coef 256) (s : State) : (resetRegisters ka kb s).moves = s.moves := rfl
@[simp] theorem resetRegisters_freeCount (ka kb : Vector Coef 256) (s : State) : (resetRegisters ka kb s).freeCount = s.freeCount := rfl

@[simp] theorem softReset_params (s : State) : (softReset s).params = s.params := rfl
@[simp] theorem softReset_ctrl (s : State) : (softReset s).ctrl = Ctrl.zero := rfl
@[simp] theorem softReset_status (s : State) : (softReset s).status = Status.zero := rfl
@[simp] theorem softReset_cmdl (s : State) : (softReset s).cmdl = 0 := rfl
@[simp] theorem softReset_offset (s : State) : (softReset s).offset = 0 := rfl
@[simp] theorem softReset_src (s : State) : (softReset s).src = Descriptor.zero := rfl
@[simp] theorem softReset_dst (s : State) : (softReset s).dst = Descriptor.zero := rfl
@[simp] theorem softReset_kaDim (s : State) : (softReset s).kaDim = KDim.zero := rfl
@[simp] theorem softReset_kbDim (s : State) : (softReset s).kbDim = KDim.zero := rfl
@[simp] theorem softReset_kaCoef (s : State) : (softReset s).kaCoef = s.kaCoef := rfl
@[simp] theorem softReset_kbCoef (s : State) : (softReset s).kbCoef = s.kbCoef := rfl
@[simp] theorem softReset_ibuf (s : State) : (softReset s).ibuf = [] := rfl
@[simp] theorem softReset_seq (s : State) : (softReset s).seq = none := rfl
@[simp] theorem softReset_mem (s : State) : (softReset s).mem = s.mem := rfl
@[simp] theorem softReset_hazard (s : State) : (softReset s).hazard = Hazard.none := rfl
@[simp] theorem softReset_rdata (s : State) : (softReset s).rdata = s.rdata := rfl
@[simp] theorem softReset_moves (s : State) : (softReset s).moves = s.moves := rfl
@[simp] theorem softReset_freeCount (s : State) : (softReset s).freeCount = s.freeCount := rfl

end Sys2Proof.Machine
end

