-- ==== Sys2Proof/Laws/Engine.lean ====
section
/-! SUPPORT. What each shared operation of the running command can do, said once: completion, the start of a pass, the
steps of the lanes and of the sequencer. -/

namespace Sys2Proof.Machine

/-- The UNPREDICTABLE bytes at completion: none, or a draw of free values for bytes that are in FP(DST, T) or that
another agent wrote there. -/
theorem settleHazard_cases (s : State) :
    settleHazard s = s ∨
      ∃ t, cmdType s = some t ∧
        ((s.hazard.spoiled = true ∧ settleHazard s = unpredict (footprint s.dst t s.dst.z.toNat) s) ∨
          (s.hazard.spoiled = false ∧ settleHazard s = unpredict s.hazard.touched s)) := by
  unfold settleHazard
  split
  · exact .inl rfl
  · rename_i t ht
    split
    · rename_i h; exact .inr ⟨t, ht, .inl ⟨h, rfl⟩⟩
    · rename_i h
      split
      · exact .inl rfl
      · exact .inr ⟨t, ht, .inr ⟨by simpa using h, rfl⟩⟩

/-- With no hazard met there is nothing UNPREDICTABLE. -/
theorem settleHazard_of_none {s : State} (h : s.hazard = Hazard.none) : settleHazard s = s := by
  unfold settleHazard
  split <;> simp [h, Hazard.none]

/-- Completion changes STATUS, SEQ, IBUF, the hazard notes, and raster memory and the draw counter as settleHazard does. -/
theorem complete_eq (s : State) :
    complete s =
      { s with
        status := { s.status with busy := false, done := true }
        seq := none
        ibuf := []
        hazard := Hazard.none
        mem := (settleHazard s).mem
        freeCount := (settleHazard s).freeCount } := by
  rcases settleHazard_cases s with h | ⟨t, _, ⟨_, h⟩ | ⟨_, h⟩⟩ <;> simp [complete, h, unpredict]

theorem complete_of_none {s : State} (h : s.hazard = Hazard.none) :
    complete s =
      { s with status := { s.status with busy := false, done := true }, seq := none, ibuf := [] } := by
  rw [complete_eq, settleHazard_of_none h, ← h]

/-- Completion keeps raster memory canonical. -/
theorem settleHazard_wf {s : State} (h : Memory.wf s.mem = true) : Memory.wf (settleHazard s).mem = true := by
  rcases settleHazard_cases s with e | ⟨t, _, ⟨_, e⟩ | ⟨_, e⟩⟩ <;> rw [e]
  · exact h
  · exact scramble_wf h _ _
  · exact scramble_wf h _ _

/-- A pass that begins: it runs from band 0; or it is empty and the command completes; or it is an empty pass 1 and pass 2
runs from band 0. -/
theorem startPass_cases (p : Pass) (s : State) :
    (passEmpty s p = false ∧ startPass p s = { s with seq := some (freshSeq p) }) ∨
      (passEmpty s p = true ∧ startPass p s = complete s) ∨
      (p = .sep1 ∧ passEmpty s .sep1 = true ∧ passEmpty s .sep2 = false ∧
        startPass p s = { s with seq := some (freshSeq .sep2) }) := by
  unfold startPass
  by_cases h : passEmpty s p = true
  · rw [if_pos h]
    cases p
    · exact .inr (.inl ⟨h, rfl⟩)
    · by_cases h2 : passEmpty s .sep2 = true
      · exact .inr (.inl ⟨h, by simp [h2]⟩)
      · exact .inr (.inr ⟨rfl, h, by simpa using h2, by simp [h2]⟩)
    · exact .inr (.inl ⟨h, rfl⟩)
  · rw [if_neg h]
    exact .inl ⟨by simpa using h, rfl⟩

/-- Storing a sample changes IBUF in pass 1, and raster memory (with the draw counter, where the bytes are free values) in
the other passes. -/
theorem passOut_cases (s : State) (t : ElemType) (p : Pass) (z y x : Nat) (pat : BitVec 32) :
    (p = .sep1 ∧ passOut s t p z y x pat = { s with ibuf := cellSet s.ibuf (ibufIndex s z y x) pat }) ∨
      (p ≠ .sep1 ∧ s.hazard.spoiled = false ∧
        passOut s t p z y x pat = { s with mem := storeSample s.mem s.dst t z y x pat }) ∨
      (p ≠ .sep1 ∧ s.hazard.spoiled = true ∧ passOut s t p z y x pat = unpredict (sampleBytes s.dst t z y x) s) := by
  cases p
  · by_cases h : s.hazard.spoiled = true
    · exact .inr (.inr ⟨by simp, h, by simp [passOut, h]⟩)
    · exact .inr (.inl ⟨by simp, by simpa using h, by simp [passOut, h]⟩)
  · exact .inl ⟨rfl, rfl⟩
  · by_cases h : s.hazard.spoiled = true
    · exact .inr (.inr ⟨by simp, h, by simp [passOut, h]⟩)
    · exact .inr (.inl ⟨by simp, by simpa using h, by simp [passOut, h]⟩)

/-- What one step of the engine can do. -/
inductive EngineEffect (s : State) : State → Prop where
  /-- nothing: the engine does not run, or the move is not enabled -/
  | idle : EngineEffect s s
  /-- a free lane takes a row that is neither done nor held -/
  | took (q : Seq) (y : Nat) (run : s.status.busy = true) (seq : s.seq = some q) (row : y < rasterH s)
      (lane : q.lanes.length < s.params.nlanes) (free : rowFree q y = true) :
      EngineEffect s
        { s with seq := some { q with lanes := q.lanes ++ [{ y := y, x := 0, tap := 0, acc := 0 }] } }
  /-- a lane handles its next tap -/
  | tapped (q : Seq) (t : ElemType) (k : Nat) (l : Lane) (run : s.status.busy = true) (seq : s.seq = some q)
      (type : cmdType s = some t) (lane : q.lanes[k]? = some l) (tap : l.tap < tapCount s q.pass) :
      EngineEffect s
        { s with seq := some { q with lanes := q.lanes.set k { l with tap := l.tap + 1, acc := laneTap s t q l } } }
  /-- a lane stores its sample -/
  | stored (q : Seq) (t : ElemType) (k : Nat) (l : Lane) (run : s.status.busy = true) (seq : s.seq = some q)
      (type : cmdType s = some t) (lane : q.lanes[k]? = some l) (tap : tapCount s q.pass ≤ l.tap) :
      EngineEffect s
        { passOut s t q.pass q.z l.y l.x (lanePattern s t q l) with seq := some (afterStore (rasterW s) q k l) }
  /-- the sequencer goes on to the next band -/
  | nextBand (q : Seq) (run : s.status.busy = true) (seq : s.seq = some q) (done : bandDone s q = true)
      (more : q.z + 1 < zproc s q.pass) :
      EngineEffect s { s with seq := some { pass := q.pass, z := q.z + 1, rowsDone := [], lanes := [] } }
  /-- the sequencer ends the pass -/
  | endPass (q : Seq) (run : s.status.busy = true) (seq : s.seq = some q) (done : bandDone s q = true)
      (last : zproc s q.pass ≤ q.z + 1) : EngineEffect s (finishPass q.pass s)

/-- Every step of the engine is one of these. -/
theorem engineStep_effect (m : EngineMove) (s : State) : EngineEffect s (engineStep m s) := by
  unfold engineStep
  split
  · rename_i run
    cases m with
    | take y =>
      simp only [takeRow]
      split
      · rename_i q seq
        split
        · rename_i h
          exact .took q y run seq h.1 h.2.1 h.2.2
        · exact .idle
      · exact .idle
    | lane k =>
      simp only [laneStep]
      split
      · rename_i q t seq type
        split
        · exact .idle
        · rename_i l lane
          split
          · rename_i tap
            exact .tapped q t k l run seq type lane tap
          · rename_i tap
            exact .stored q t k l run seq type lane (Nat.le_of_not_lt tap)
      · exact .idle
    | sequence =>
      simp only [closeBand]
      split
      · rename_i q seq
        split
        · rename_i done
          split
          · rename_i more
            exact .nextBand q run seq done more
          · rename_i last
            exact .endPass q run seq done (Nat.le_of_not_lt last)
        · exact .idle
      · exact .idle
  · exact .idle

/-- The sequencer ends a pass: pass 2 begins after pass 1, and the command completes after any other. -/
theorem finishPass_cases (p : Pass) (s : State) :
    (p ≠ .sep1 ∧ finishPass p s = complete s) ∨ (p = .sep1 ∧ finishPass p s = startPass .sep2 s) := by
  cases p <;> simp [finishPass]

end Sys2Proof.Machine
end

