-- ==== Sys2Proof/Laws/Launch.lean ====
section
/-! SUPPORT. Footprints, and what the model notes at the launch of a command: exactly the breaches of
spec/70_reset_and_hazards.md rule R258 items 1 and 2. -/

namespace Sys2Proof.Machine

/-- A byte is in a footprint exactly if it belongs to one of its samples (R74). -/
theorem mem_footprint {d : Descriptor} {t : ElemType} {zn a : Nat} :
    a ∈ footprint d t zn ↔
      ∃ z < zn, ∃ y < d.h.toNat, ∃ x < d.w.toNat, a ∈ sampleBytes d t z y x := by
  simp [footprint, List.mem_flatMap]

/-- Every byte of a footprint is an address of raster memory (R73). -/
theorem lt_memSize_of_mem_footprint {d : Descriptor} {t : ElemType} {zn a : Nat} (h : a ∈ footprint d t zn) :
    a < memSize := by
  obtain ⟨z, _, y, _, x, _, h⟩ := mem_footprint.1 h
  obtain ⟨b, _, rfl⟩ := mem_accessBytes.1 h
  exact wrapAddr_lt _

/-- `hasRepeat` decides whether a list repeats an entry. -/
theorem hasRepeat_eq_false {l : List Nat} : hasRepeat l = false ↔ l.Nodup := by
  induction l with
  | nil => simp [hasRepeat]
  | cons a l ih => simp [hasRepeat, ih]

/-- The launch is spoiled exactly if it breaks R258 item 1 or 2. -/
theorem launchHazard_spoiled {s : State} {t : ElemType} : (launchHazard s t).spoiled = false ↔ LaunchOk s t := by
  simp [launchHazard, hasRepeat_eq_false, LaunchOk]

/-- A launch that keeps R258 items 1 and 2 notes no hazard. -/
theorem launchHazard_of_ok {s : State} {t : ElemType} (h : LaunchOk s t) : launchHazard s t = Hazard.none := by
  have h1 := launchHazard_spoiled.2 h
  simp only [launchHazard] at h1 ⊢
  rw [h1]
  rfl

end Sys2Proof.Machine
end

