-- ==== Sys2Proof/Laws/Ops.lean ====
section
/-! SUPPORT. What each shared operation over the registers can do, said once: register writes, the resets, host writes of
raster memory, the issue of a command, and one step. -/

namespace Sys2Proof.Machine

/-- The set with a number added has that number and the old ones (R39). -/
theorem mem_insertRising {n m : Nat} {l : List Nat} : m ∈ insertRising n l ↔ m = n ∨ m ∈ l := by
  induction l with
  | nil => simp [insertRising]
  | cons a l ih =>
    simp only [insertRising]
    split
    · simp
    · split
      · subst_vars; simp
      · simp [ih]; tauto

/-- Adding a number keeps the list rising. -/
theorem insertRising_rising {n : Nat} {l : List Nat} (h : l.Pairwise (· < ·)) :
    (insertRising n l).Pairwise (· < ·) := by
  induction l with
  | nil => simp [insertRising]
  | cons a l ih =>
    rw [List.pairwise_cons] at h
    simp only [insertRising]
    split
    · rename_i hna
      refine List.pairwise_cons.2 ⟨fun b hb => ?_, List.pairwise_cons.2 h⟩
      rcases List.mem_cons.1 hb with rfl | hb
      exacts [hna, hna.trans (h.1 b hb)]
    · split
      · subst_vars; exact List.pairwise_cons.2 h
      · refine List.pairwise_cons.2 ⟨fun b hb => ?_, ih h.2⟩
        rcases mem_insertRising.1 hb with rfl | hb
        · omega
        · exact h.1 b hb

/-- A write to CTRL is the soft reset, or writes the two enables (R209). -/
theorem writeCtrl_cases (v : Word) (s : State) :
    (v.getLsbD 31 = true ∧ s.status.busy = false ∧ writeCtrl v s = softReset s) ∨
      ((v.getLsbD 31 = false ∨ s.status.busy = true) ∧
        writeCtrl v s = { s with ctrl := { ieDone := v.getLsbD 0, ieErr := v.getLsbD 1 } }) := by
  unfold writeCtrl
  cases h1 : v.getLsbD 31 <;> cases h2 : s.status.busy <;> simp

/-- A register write is a write to CTRL, or is dropped by the BUSY lock, or is done (R202, R203, R209). -/
theorem writeReg_cases (r : Reg) (v : Word) (s : State) :
    (r = .ctrl ∧ writeReg r v s = writeCtrl v s) ∨
      (r ≠ .ctrl ∧ s.status.busy = true ∧ writeReg r v s = s) ∨
      (r ≠ .ctrl ∧ s.status.busy = false ∧ writeReg r v s = writeUnlocked v s r) := by
  unfold writeReg
  by_cases h : r = .ctrl
  · exact .inl ⟨h, if_pos h⟩
  · rw [if_neg h]
    cases hb : s.status.busy
    · exact .inr (.inr ⟨h, rfl, rfl⟩)
    · exact .inr (.inl ⟨h, rfl, rfl⟩)

/-- When the reset input stops a run of element type `t`, FP(DST, T) takes free values; otherwise nothing changes (R250,
R251). -/
theorem stopRun_cases (s : State) :
    (s.status.busy = true ∧ ∃ t, cmdType s = some t ∧ stopRun s = unpredict (footprint s.dst t s.dst.z.toNat) s) ∨
      ((s.status.busy = false ∨ cmdType s = none) ∧ stopRun s = s) := by
  unfold stopRun
  cases hb : s.status.busy
  · exact .inr ⟨.inl rfl, rfl⟩
  · cases ht : cmdType s
    · exact .inr ⟨.inr rfl, rfl⟩
    · exact .inl ⟨rfl, _, rfl, rfl⟩

/-- The reset input keeps raster memory canonical. -/
theorem stopRun_wf {s : State} (h : Memory.wf s.mem = true) : Memory.wf (stopRun s).mem = true := by
  rcases stopRun_cases s with ⟨_, t, _, e⟩ | ⟨_, e⟩ <;> rw [e]
  · exact scramble_wf h _ _
  · exact h

/-- A write of raster memory writes its byte and, while a command of element type `t` runs, notes what it touched (R88). -/
theorem hostMemWrite_cases (a : Nat) (b : Byte) (s : State) :
    ((s.status.busy = false ∨ cmdType s = none) ∧ hostMemWrite a b s = { s with mem := writeByte s.mem a b }) ∨
      (s.status.busy = true ∧ ∃ t, cmdType s = some t ∧
        hostMemWrite a b s =
          { s with
            mem := writeByte s.mem a b
            hazard :=
              { spoiled := s.hazard.spoiled || (footprint s.src t s.src.z.toNat).contains a
                touched :=
                  if (footprint s.dst t s.dst.z.toNat).contains a then insertRising a s.hazard.touched
                  else s.hazard.touched } }) := by
  unfold hostMemWrite
  cases hb : s.status.busy
  · exact .inl ⟨.inl rfl, rfl⟩
  · cases ht : cmdType s
    · exact .inl ⟨.inr rfl, rfl⟩
    · exact .inr ⟨rfl, _, rfl, rfl⟩

/-- The issue of a command is ignored, or refused with the cause its checks give, or accepted (R205). -/
theorem issue_cases (i : Instr) (p : Pass) (verdict : Option Cause) (s : State) :
    ((s.status.busy = true ∨ s.status.err = true) ∧ issue i p verdict s = s) ∨
      (s.status.busy = false ∧ s.status.err = false ∧
        ((∃ c, verdict = some c ∧ issue i p verdict s = raise c (clearDone s)) ∨
          (verdict = none ∧ issue i p verdict s = accept ((encode i).setWidth 14) p (clearDone s)))) := by
  unfold issue issueAllowed
  cases hb : s.status.busy <;> cases he : s.status.err <;> cases verdict <;> simp

/-- Check(CONV) passes exactly when R221 to R224 hold. -/
theorem checkConv_eq_none (e : EType) (s : State) :
    checkConv e s = none ↔
      ∃ t, e.elem? = some t ∧ elemBits t < s.params.accW ∧ s.src.w = s.dst.w ∧ s.src.h = s.dst.h ∧
        s.dst.z.toNat ≤ s.src.z.toNat := by
  unfold checkConv
  cases e.elem? with
  | none => simp
  | some t =>
    simp only [widthViolated, shapeViolated, bandsViolated, decide_eq_true_eq, Bool.or_eq_true, Option.some.injEq,
      exists_eq_left']
    split
    · simp; omega
    · split
      · simp; tauto
      · rename_i hw hs
        obtain ⟨hs1, hs2⟩ : s.src.w = s.dst.w ∧ s.src.h = s.dst.h := by simpa using hs
        split
        · simp [hs1, hs2]; omega
        · simp [hs1, hs2]; omega

/-- Check(CONVSEP) passes exactly when Check(CONV) does and R225 and R232 hold. -/
theorem checkConvsep_eq_none (e : EType) (s : State) :
    checkConvsep e s = none ↔ checkConv e s = none ∧ not1dViolated s = false ∧ capacityViolated s = false := by
  unfold checkConvsep
  cases checkConv e s with
  | some c => simp
  | none => cases not1dViolated s <;> cases capacityViolated s <;> simp

/-- A register read is refused, or gives the host the word and changes nothing else (R201, R211). -/
theorem portRead_cases (off size : Nat) (s : State) :
    (definedAccess off size = false ∧ portRead off size s = .refused .undefinedPortAccess) ∨
      (definedAccess off size = true ∧ portRead off size s = .next { s with rdata := readOffset s off }) := by
  unfold portRead
  cases h : definedAccess off size
  · exact .inl ⟨rfl, rfl⟩
  · exact .inr ⟨rfl, rfl⟩

/-- A register write is refused, or is at a reserved offset and ignored, or is a write to CMD, or is the write of another
register (R34, R202, R205, R211). -/
theorem portWrite_cases (off size : Nat) (v : Word) (s : State) :
    (definedAccess off size = false ∧ portWrite off size v s = .refused .undefinedPortAccess) ∨
      (definedAccess off size = true ∧
        ((regAt off = none ∧ portWrite off size v s = .next s) ∨
          (regAt off = some .cmd ∧ portWrite off size v s = writeCmd v s) ∨
          (∃ r, regAt off = some r ∧ r ≠ .cmd ∧ portWrite off size v s = .next (writeReg r v s)))) := by
  unfold portWrite
  cases h : definedAccess off size
  · exact .inl ⟨rfl, rfl⟩
  · refine .inr ⟨rfl, ?_⟩
    rw [if_pos rfl]
    unfold writeOffset
    cases hr : regAt off with
    | none => exact .inl ⟨rfl, rfl⟩
    | some r =>
      by_cases hc : r = .cmd
      · subst hc; exact .inr (.inl ⟨rfl, rfl⟩)
      · exact .inr (.inr ⟨r, rfl, hc, if_neg hc⟩)

/-- With no move the block goes on by itself. -/
theorem step_nil {s : State} (h : s.moves = []) : step s = .next (unattended s) := by
  simp [step, h]

/-- Otherwise the step is the next move. -/
theorem step_cons {s : State} {m : Move} {rest : List Move} (h : s.moves = m :: rest) :
    step s = perform m rest s := by
  simp [step, h]

/-- Raster memory right after reset is in canonical form. -/
theorem reset_memory_wf : Memory.wf State.reset.mem = true := rfl

end Sys2Proof.Machine
end

