-- ==== Sys2Proof/Laws/PerInstr.lean ====
section
/-! SUPPORT. Statements made per command, one lemma per constructor of Instr. -/

namespace Sys2Proof.Laws

/-- OP of a command (R104). -/
def ReservedZero.opCode : Instr → BitVec 4
  | .nop => 0
  | .conv _ _ _ => 1
  | .convsep _ _ => 2

/-- The encoder writes zeros into the reserved bits, and the command's OP into bits 3:0 (R101, R104, R107). -/
def ReservedZero.Statement (i : Instr) : Prop :=
  reservedBits (encode i) = 0#18 ∧ opField (encode i) = ReservedZero.opCode i

theorem ReservedZero.nop : ReservedZero.Statement .nop := ⟨rfl, rfl⟩

theorem ReservedZero.conv (etype : EType) (ksel : Bank) (rshift : Nat) :
    ReservedZero.Statement (.conv etype ksel rshift) :=
  ⟨reservedBits_assembleWord _ _ _ _, opField_assembleWord _ _ _ _⟩

theorem ReservedZero.convsep (etype : EType) (rshift : Nat) : ReservedZero.Statement (.convsep etype rshift) :=
  ⟨reservedBits_assembleWord _ _ _ _, opField_assembleWord _ _ _ _⟩

end Sys2Proof.Laws
end

