-- ==== Sys2Proof/Tests/Slice0.lean ====
section
/-! SUPPORT. Tests. The first part checks the model on fixed values; each expected value comes from spec/ (the file and
table are named), not from the model. The second part holds a witness for every statement of
Certificates/Slice0/Obligations.lean that has hypotheses: a concrete state and operands that meet all of them. -/

namespace Sys2Proof.Tests

open Sys2Proof Sys2Proof.Machine

/-! ## Well-formedness: the one check, RSHIFT below 64 (R106) -/

theorem test_wellFormed_conv_rshift : (Instr.conv .u8 .a 63).wellFormed = true ∧
    (Instr.conv .u8 .a 64).wellFormed = false := by decide

theorem test_wellFormed_convsep_rshift : (Instr.convsep .s16 63).wellFormed = true ∧
    (Instr.convsep .s16 64).wellFormed = false := by decide

/-! ## Decoding: words written out bit by bit (R101): reserved, RSHIFT, KSEL, ETYPE, OP -/

theorem test_decode_nop : decode 0b000000000000000000_000000_0_000_0000#32 = .command .nop := by decide

theorem test_decode_nop_ignored_bits : decode 0b000000000000000000_111111_1_111_0000#32 = .command .nop := by decide

theorem test_decode_conv : decode 0b000000000000000000_000100_1_101_0001#32 = .command (.conv .s16 .b 4) := by decide

theorem test_decode_conv_longest_shift : decode 0b000000000000000000_111111_0_100_0001#32 = .command (.conv .s8 .a 63) := by
  decide

theorem test_decode_convsep : decode 0b000000000000000000_000010_0_101_0010#32 = .command (.convsep .s16 2) := by decide

/-- Every code of ETYPE (R103), the reserved ones too (R102). -/
theorem test_decode_etypes :
    decode 0b000000000000000000_000000_0_000_0001#32 = .command (.conv .u8 .a 0) ∧
    decode 0b000000000000000000_000000_0_001_0001#32 = .command (.conv .u16 .a 0) ∧
    decode 0b000000000000000000_000000_0_010_0001#32 = .command (.conv .u32 .a 0) ∧
    decode 0b000000000000000000_000000_0_011_0001#32 = .command (.conv .reserved3 .a 0) ∧
    decode 0b000000000000000000_000000_0_100_0010#32 = .command (.convsep .s8 0) ∧
    decode 0b000000000000000000_000000_0_101_0010#32 = .command (.convsep .s16 0) ∧
    decode 0b000000000000000000_000000_0_110_0010#32 = .command (.convsep .s32 0) ∧
    decode 0b000000000000000000_000000_0_111_0010#32 = .command (.convsep .reserved7 0) := by decide

/-- 95_test_vectors.md 2.5, the ILLEGAL words. -/
theorem test_decode_illegal :
    decode 0x00004000#32 = .illegal .reservedBits ∧ decode 0x80000001#32 = .illegal .reservedBits ∧
    decode 0x00000082#32 = .illegal .convsepWithKsel ∧ decode 0x0000000F#32 = .illegal .illegalOp := by decide

/-- A byte list that is not one word is refused by name (R118). -/
theorem test_decode_length : decodeBytes [0x01, 0x00, 0x00] = .illegal .wrongLength ∧
    decodeBytes [0x11, 0x3F, 0x00, 0x00] = .command (.conv .u16 .a 63) := by decide

theorem test_encode : encode (.conv .s16 .b 4) = 0x000004D1#32 ∧ encode (.convsep .s16 4) = 0x00000452#32 ∧
    encode .nop = 0x00000000#32 := by decide

/-! ## Arithmetic -/

/-- 95_test_vectors.md 2.1: even widths lean to the positive side. -/
theorem test_tap_bounds : (tapNeg 1, tapPos 1) = (0, 1) ∧ (tapNeg 2, tapPos 2) = (0, 2) ∧
    (tapNeg 4, tapPos 4) = (-1, 3) ∧ (tapNeg 15, tapPos 15) = (-7, 8) ∧ (tapNeg 0, tapPos 0) = (1, 1) := by decide

/-- 95_test_vectors.md 2.2, rows Q1, Q3, Q4, Q10, Q16, Q19, Q22. -/
theorem test_fpq_rows : fpq 32 .u8 300 0 0 = 0xFF#32 ∧ fpq 32 .s8 (-7) 1 0 = 0xFC#32 ∧
    fpq 32 .s8 (-7) 1 10 = 0x06#32 ∧ fpq 32 .s8 (-129) 0 0 = 0x80#32 ∧ fpq 32 .s16 (-1) 1 0 = 0xFFFF#32 ∧
    fpq 32 .u8 (-8) 3 128 = 0x7F#32 ∧ fpq 32 .s8 (-100) 4 0 = 0xF9#32 := by decide

/-- 95_test_vectors.md 2.2, rows Q28, Q29, Q31, Q32: shifts past the width, and an adder that does not wrap. -/
theorem test_fpq_extremes : fpq 32 .s16 (-2147483648) 32 0 = 0xFFFF#32 ∧ fpq 32 .s8 (-1) 63 0 = 0xFF#32 ∧
    fpq 32 .s16 2147483647 0 2147483647 = 0x7FFF#32 ∧ fpq 32 .s16 (-2147483648) 0 (-2147483648) = 0x8000#32 := by decide

/-! ## Raster memory: 95_test_vectors.md 2.8 -/

/-- The descriptor of M1 and M2. -/
def descM1 : Descriptor := { base := 0x1000, rstride := 8, bstride := 0x100, w := 4, h := 3, z := 2 }

/-- M1 and M2: one pair of bytes, read as s16 and as u16. -/
theorem test_load_sample : sampleAddr descM1 .s16 1 2 3 = 0x1116 ∧
    loadSample [(0x1116, 0x18#8), (0x1117, 0xFC#8)] descM1 .s16 1 2 3 = -1000 ∧
    loadSample [(0x1116, 0x18#8), (0x1117, 0xFC#8)] descM1 .u16 1 2 3 = 64536 := by decide

/-- M5: an access that wraps past 2^32. -/
theorem test_load_wraps :
    loadSample [(0, 0x12#8), (0xFFFFFFFF, 0x34#8)] { descM1 with base := 0xFFFFFFFF } .u16 0 0 0 = 0x1234 := by decide

/-- M7: the low byte goes to the lower address; its value 0 leaves the store with nothing listed there. -/
theorem test_store_sample : storeSample [(0x2000, 0xEE#8)] { descM1 with base := 0x2000 } .s16 0 0 0 0x8000#32 =
    [(0x2001, 0x80#8)] := by decide

/-! ## Register accesses: 95_test_vectors.md 2.6 -/

/-- The next state of an outcome, if it is one. -/
def next? : Host.Outcome State Fault Refusal → Option State
  | .next s => some s
  | .fault _ => none
  | .refused _ => none

/-- The state after one write of `v` to the register at `off`. -/
def afterWrite (off : Nat) (v : Word) (s : State) : Option State := next? (step { s with moves := [.wr off 4 v] })

/-- The word the register at `off` reads after one write of `v` to it. -/
def writeThenRead (off : Nat) (v : Word) (s : State) : Option Word := (afterWrite off v s).map (readOffset · off)

/-- STATUS as it reads after one write of `v` to the register at `off`. -/
def statusAfter (off : Nat) (v : Word) (s : State) : Option Word :=
  (afterWrite off v s).map (fun u => statusWord u.status)

theorem test_read_constants : readOffset State.reset 0x000 = 0x434E5637#32 ∧ readOffset State.reset 0x004 = 0x000F1020#32 ∧
    readOffset State.reset 0x008 = 0x00010000#32 := by decide

theorem test_write_masks : writeThenRead 0x030 0xFFFFFFFF#32 State.reset = some 0x0000FFFF#32 ∧
    writeThenRead 0x060 0xFFFFFFFF#32 State.reset = some 0x00000F0F#32 ∧
    writeThenRead 0x02C 0x00030005#32 State.reset = some 0x00030005#32 ∧
    writeThenRead 0x00C 0x7FFFFFFF#32 State.reset = some 0x00000003#32 ∧
    writeThenRead 0x000 0x12345678#32 State.reset = some 0x434E5637#32 := by decide

theorem test_write_coefficient : writeThenRead 0x400 0x00018000#32 State.reset = some 0xFFFF8000#32 ∧
    writeThenRead 0x448 0xFFFFFFFF#32 State.reset = some 0xFFFFFFFF#32 := by decide

/-- A state with STATUS as given. -/
def withStatus (busy done err : Bool) (cause : BitVec 4) : State :=
  { State.reset with status := { busy := busy, done := done, err := err, cause := cause } }

theorem test_status_write : statusAfter 0x010 1 (withStatus false true false 0) = some 0x00000002#32 ∧
    statusAfter 0x010 2 (withStatus false true false 0) = some 0x00000000#32 ∧
    statusAfter 0x010 0xFFFFFFFF#32 (withStatus false false true 4) = some 0x00000044#32 := by decide

theorem test_busy_lock : writeThenRead 0x020 0x5000 (withStatus true false false 0) = some 0x00000000#32 ∧
    writeThenRead 0x00C 0x80000003#32 (withStatus true false false 0) = some 0x00000003#32 ∧
    statusAfter 0x00C 0x80000003#32 (withStatus true false false 0) = some 0x00000001#32 := by decide

theorem test_fault_leaves_by_soft_reset :
    writeThenRead 0x020 0x5000 (withStatus false false true 4) = some 0x00005000#32 ∧
    statusAfter 0x00C 0x80000000#32 (withStatus false false true 4) = some 0x00000000#32 := by decide

/-- 95_test_vectors.md 2.6, the interrupt output. -/
theorem test_irq : irq { withStatus false true false 0 with ctrl := { ieDone := true, ieErr := false } } = true ∧
    irq { withStatus false true false 0 with ctrl := { ieDone := false, ieErr := true } } = false ∧
    irq { withStatus false false true 1 with ctrl := { ieDone := false, ieErr := true } } = true ∧
    irq { withStatus false false true 1 with ctrl := { ieDone := true, ieErr := false } } = false := by decide

/-! ## Commands, one step each -/

theorem test_nop : statusAfter 0x014 0x00000000#32 (withStatus false true false 0) = some 0x00000002#32 := by decide

/-- F1 to F4, and DONE is cleared first (R227). -/
theorem test_illegal_words : statusAfter 0x014 0x00000003#32 (withStatus false true false 0) = some 0x00000074#32 ∧
    statusAfter 0x014 0x00004001#32 State.reset = some 0x00000074#32 ∧
    statusAfter 0x014 0x00000082#32 State.reset = some 0x00000074#32 ∧
    statusAfter 0x014 0x00004000#32 State.reset = some 0x00000074#32 := by decide

/-- The setup of the F rows: SIZE words, bands and DIM words. -/
def faultSetup (srcSize dstSize srcBands dstBands kaDim kbDim : Word) : State :=
  writeReg .srcSize srcSize (writeReg .dstSize dstSize (writeReg .srcBands srcBands (writeReg .dstBands dstBands
    (writeReg .kaDim kaDim (writeReg .kbDim kbDim State.reset)))))

/-- F5, F6, F8, F9, F10, F16, F17. -/
theorem test_conv_refused :
    statusAfter 0x014 0x00000071#32 State.reset = some 0x00000044#32 ∧
    statusAfter 0x014 0x00000021#32 State.reset = some 0x00000024#32 ∧
    statusAfter 0x014 0x00000001#32 (faultSetup 0x00040004 0x00050004 0 0 0 0) = some 0x00000014#32 ∧
    statusAfter 0x014 0x00000001#32 (faultSetup 0x00040004 0x00040005 0 0 0 0) = some 0x00000014#32 ∧
    statusAfter 0x014 0x00000001#32 (faultSetup 0x00040004 0x00040004 1 2 0 0) = some 0x00000054#32 ∧
    statusAfter 0x014 0x00000031#32 (faultSetup 0x00040004 0x00050004 0 0 0 0) = some 0x00000044#32 ∧
    statusAfter 0x014 0x00000021#32 (faultSetup 0x00040004 0x00050004 0 0 0 0) = some 0x00000024#32 := by decide

/-- F11, F12, F14, F18, F19, F20 and two rows of V-S6. -/
theorem test_convsep_refused :
    statusAfter 0x014 0x00000002#32 (faultSetup 0x00040004 0x00040004 1 1 0x0101 0x0103) = some 0x00000034#32 ∧
    statusAfter 0x014 0x00000002#32 (faultSetup 0x01000101 0x01000101 1 1 0x0103 0x0103) = some 0x00000064#32 ∧
    statusAfter 0x014 0x00000002#32 (faultSetup 0x01000100 0x01000100 2 1 0x0103 0x0103) = some 0x00000064#32 ∧
    statusAfter 0x014 0x00000002#32 (faultSetup 0x00040004 0x00050004 1 2 0x0202 0x0103) = some 0x00000014#32 ∧
    statusAfter 0x014 0x00000002#32 (faultSetup 0x00040004 0x00040004 1 2 0x0202 0x0103) = some 0x00000054#32 ∧
    statusAfter 0x014 0x00000002#32 (faultSetup 0x01000101 0x01000101 1 1 0x0101 0x0103) = some 0x00000034#32 ∧
    statusAfter 0x014 0x00000002#32 (faultSetup 0x00040004 0x00040004 1 1 0x0103 0x0301) = some 0x00000034#32 := by decide

/-- V-C12: an empty raster is accepted and has completed at the first read. -/
theorem test_conv_empty : statusAfter 0x014 0x00000001#32 State.reset = some 0x00000002#32 := by decide

/-! ## What the commands store (the closed forms that statements compare the steps with) -/

/-- A bank with the listed entries, and 0 in every other. -/
def bankOf (entries : List (Fin 256 × Coef)) : Vector Coef 256 :=
  entries.foldl (fun bank e => bank.set e.1 e.2) (Vector.replicate 256 0)

/-- V-C5, third kernel, at two samples: even widths and heights, no flip. -/
def stateC5 : State :=
  { State.reset with
    src := { base := 0, rstride := 6, bstride := 18, w := 3, h := 3, z := 1 }
    dst := { base := 0x20, rstride := 6, bstride := 18, w := 3, h := 3, z := 1 }
    kaDim := { kw := 2, kh := 2 }
    kaCoef := bankOf [(0, 1), (1, 2), (16, 3), (17, 4)]
    mem := [(0, 1), (2, 2), (4, 3), (6, 4), (8, 5), (10, 6), (12, 7), (14, 8), (16, 9)] }

theorem test_dense_even_kernel : densePattern stateC5 .u16 .a 0 0 0 0 = 37#32 ∧
    densePattern stateC5 .u16 .a 0 0 2 2 = 9#32 ∧ densePattern stateC5 .u16 .a 0 0 1 2 = 33#32 := by decide +kernel

/-- V-C9: the accumulator wraps, and the clamp then gives 0; with ACC_W = 40 it does not. -/
def stateC9 : State :=
  { State.reset with
    src := { base := 0, rstride := 4, bstride := 4, w := 2, h := 1, z := 1 }
    dst := { base := 8, rstride := 4, bstride := 4, w := 2, h := 1, z := 1 }
    kaDim := { kw := 2, kh := 1 }
    kaCoef := bankOf [(0, 32767), (1, 32767)]
    mem := [(0, 0xFF), (1, 0xFF), (2, 0xFF), (3, 0xFF)] }

theorem test_dense_wraps : densePattern stateC9 .u16 .a 0 0 0 0 = 0#32 ∧ densePattern stateC9 .u16 .a 0 0 0 1 = 65535#32 ∧
    densePattern { stateC9 with params := { stateC9.params with accW := 40 } } .u16 .a 0 0 0 0 = 65535#32 := by decide +kernel

/-- V-S4: bank B is read as a column, and not flipped. -/
def stateS4 : State :=
  { State.reset with
    src := { base := 0, rstride := 2, bstride := 4, w := 2, h := 2, z := 1 }
    dst := { base := 16, rstride := 2, bstride := 4, w := 2, h := 2, z := 1 }
    kaDim := { kw := 2, kh := 1 }
    kbDim := { kw := 2, kh := 1 }
    kaCoef := bankOf [(0, 1), (1, 1)]
    kbCoef := bankOf [(0, 1), (1, 10)]
    mem := [(0, 1), (1, 2), (2, 3), (3, 4)] }

theorem test_separable_column : sepPattern stateS4 .u8 0 0 0 0 = 73#32 ∧ sepPattern stateS4 .u8 0 0 0 1 = 42#32 ∧
    sepPattern stateS4 .u8 0 0 1 0 = 7#32 ∧ sepPattern stateS4 .u8 0 0 1 1 = 4#32 := by decide +kernel

/-! ## One step of a running command -/

/-- A state in RUN with the latched command, pass, band and lanes given. -/
def running (s : State) (i : Instr) (p : Pass) (z : Nat) (rowsDone : List Nat) (lanes : List Lane) : State :=
  { s with
    status := { busy := true, done := false, err := false, cause := 0 }
    cmdl := (encode i).setWidth 14
    seq := some { pass := p, z := z, rowsDone := rowsDone, lanes := lanes } }

/-- V-S4's second tap of dst(0,0) in pass 1: 1 * 1 is in ACC, 1 * 2 is added. -/
theorem test_lane_tap :
    (engineStep (.lane 0) (running stateS4 (.convsep .u8 0) .sep1 0 [] [{ y := 0, x := 0, tap := 1, acc := 1 }])).seq =
      some { pass := .sep1, z := 0, rowsDone := [], lanes := [{ y := 0, x := 0, tap := 2, acc := 3 }] } := by decide +kernel

/-- The last sample of a row is stored, and the row is done (R39). -/
theorem test_lane_store :
    let u := engineStep (.lane 0) (running stateS4 (.conv .u8 .a 0) .single 0 [] [{ y := 1, x := 1, tap := 2, acc := 300 }])
    readByte u.mem 19 = 0xFF#8 ∧ u.seq = some { pass := .single, z := 0, rowsDone := [1], lanes := [] } := by decide

/-- The last band of pass 1 is done: pass 2 begins (R163). -/
theorem test_pass_barrier :
    (engineStep .sequence (running stateS4 (.convsep .u8 0) .sep1 0 [0, 1] [])).seq =
      some { pass := .sep2, z := 0, rowsDone := [], lanes := [] } := by decide

/-- R148: completion. -/
theorem test_completion :
    (engineStep .sequence (running stateS4 (.conv .u8 .a 0) .single 0 [0, 1] [])).status =
      { busy := false, done := true, err := false, cause := 0 } := by decide

/-! ## The host notation: 30_encoding.md R115, R116 -/

theorem test_assemble_convolve : assemble (.convolve .u8 .a (some 1) (some 100)) =
    some [.wr 0x018 4 0x64#32, .wr 0x014 4 0x101#32] := by decide

theorem test_assemble_kernel : assemble (.kernel .a 2 2 [1, 2, 3, -4]) =
    some [.wr 0x060 4 0x202#32, .wr 0x400 4 1#32, .wr 0x404 4 2#32, .wr 0x440 4 3#32, .wr 0x444 4 0xFFFFFFFC#32] := by
  decide

theorem test_assemble_raster : assemble (.raster .dst 0x2000 5 5 1 8 40) =
    some [.wr 0x040 4 0x2000#32, .wr 0x044 4 8#32, .wr 0x048 4 0x28#32, .wr 0x04C 4 0x50005#32, .wr 0x050 4 1#32] := by
  decide

/-- R116 by hand: `1 << 16 | 65537` is 0x10001, an or and not a sum. -/
theorem test_assemble_raster_wide : fieldsWord 1 65537 16 = 0x00010001#32 ∧ fieldsWord 3 (-1) 16 = 0xFFFFFFFF#32 ∧
    fieldsWord 0xFFFF 0xFFFF 16 = 0xFFFFFFFF#32 ∧ fieldsWord 15 15 8 = 0x00000F0F#32 := by decide

/-! # Witnesses: the hypotheses of the statements can be met -/

/-! ## The command word -/

theorem witness_DecodeOfEncode : (Instr.conv .reserved7 .b 63).wellFormed = true ∧
    (Instr.convsep .u8 0).wellFormed = true ∧ Instr.nop.wellFormed = true := by decide

theorem witness_EncodeOfDecode : decode 0x00003FF0#32 = .command .nop ∧
    decode 0x00003FF1#32 = .command (.conv .reserved7 .b 63) ∧ Instr.conv .reserved7 .b 63 ≠ .nop := by decide

theorem witness_DecodeFollowsOpcodeMap :
    0x00003FF0#32 &&& 0xFFFFC00F#32 = 0x00000000#32 ∧ 0x00003FF1#32 &&& 0xFFFFC00F#32 = 0x00000001#32 ∧
    0x00003F72#32 &&& 0xFFFFC08F#32 = 0x00000002#32 ∧
    (0x00000082#32 &&& 0xFFFFC00F#32 ≠ 0x00000000#32 ∧ 0x00000082#32 &&& 0xFFFFC00F#32 ≠ 0x00000001#32 ∧
      0x00000082#32 &&& 0xFFFFC08F#32 ≠ 0x00000002#32) := by decide

theorem witness_IllegalWordsRaiseIllegalCommand :
    State.reset.Idle ∧ ({ State.reset with moves := [.wr 0x014 4 0x4000#32] } : State).moves = .wr 0x014 4 0x4000#32 :: [] ∧
      decode 0x4000#32 = .illegal .reservedBits ∧ decode 0x00000003#32 = .illegal .illegalOp ∧
      decode 0x0000008F#32 = .illegal .illegalOp ∧ decode 0x00000082#32 = .illegal .convsepWithKsel := by decide

theorem witness_WorkedEncodings : State.reset.Idle ∧ State.reset.params.accW ≤ 32 := by decide

theorem witness_TableWordsReachTheDecoder : 0xFFFFFFFF < 2 ^ 32 := by decide

/-! ## Issue -/

theorem witness_StepRunsDecodedCommand :
    ({ State.reset with moves := [.wr 0x014 4 0x3F01#32] } : State).moves = .wr 0x014 4 0x3F01#32 :: [] ∧
      decode 0x3F01#32 = .command (.conv .u8 .a 63) ∧ 0x3F01 < 2 ^ 32 ∧
      decode (BitVec.ofNat 32 0x3F01) = .command (.conv .u8 .a 63) := by decide

theorem witness_NopChangesNothing :
    ({ withStatus false true false 0 with moves := [.wr 0x014 4 0x3FF0#32] } : State).moves = .wr 0x014 4 0x3FF0#32 :: [] ∧
      0x3FF0#32 &&& 0xFFFFC00F#32 = 0x00000000#32 ∧ (0x00004000#32).extractLsb' 14 18 ≠ 0#18 := by decide

theorem witness_CommandsIgnoredUnlessIdle :
    (withStatus true false false 0).status.busy = true ∧ (withStatus false false true 7).status.err = true ∧
      ({ withStatus true false false 0 with moves := [.wr 0x014 4 1#32] } : State).moves = .wr 0x014 4 1#32 :: [] := by decide

/-- For ConvAccepted and ConvsepAccepted; V-S4's raster is not empty. -/
theorem witness_accepted :
    stateS4.Idle ∧ EType.u8.elem? = some .u8 ∧ CommonPreconditions stateS4 .u8 ∧ Kernels1D stateS4 ∧ FitsIbuf stateS4 ∧
      0 < stateS4.src.w.toNat ∧ 0 < stateS4.src.h.toNat ∧ 0 < stateS4.dst.z.toNat ∧ 0 < stateS4.src.z.toNat := by decide

/-- Each dimension empty alone; with no destination band CONVSEP over a source with bands is not one of these. -/
def stateNoBands : State := { stateS4 with dst := { stateS4.dst with z := 0 } }

def stateNoColumns : State :=
  { stateS4 with src := { stateS4.src with w := 0 }, dst := { stateS4.dst with w := 0 } }

def stateNoRows : State :=
  { stateS4 with src := { stateS4.src with h := 0 }, dst := { stateS4.dst with h := 0 } }

def stateNoBandsAtAll : State := { stateNoBands with src := { stateS4.src with z := 0 } }

theorem witness_EmptyRasterCommandsComplete :
    (stateNoBands.Idle ∧ CommonPreconditions stateNoBands .u8 ∧ stateNoBands.dst.z = 0) ∧
    (stateNoColumns.Idle ∧ CommonPreconditions stateNoColumns .u8 ∧ Kernels1D stateNoColumns ∧ FitsIbuf stateNoColumns ∧
      stateNoColumns.src.w = 0) ∧
    (stateNoRows.Idle ∧ CommonPreconditions stateNoRows .u8 ∧ Kernels1D stateNoRows ∧ FitsIbuf stateNoRows ∧
      stateNoRows.src.h = 0) ∧
    (stateNoBandsAtAll.Idle ∧ CommonPreconditions stateNoBandsAtAll .u8 ∧ Kernels1D stateNoBandsAtAll ∧
      FitsIbuf stateNoBandsAtAll ∧ stateNoBandsAtAll.src.z = 0) := by decide

/-- The clauses of ConvRefusedInOrder, each at the boundary: u32 with ACC_W = 32, one column more, one row more, one
source band too few. -/
theorem witness_ConvRefusedInOrder :
    stateS4.Idle ∧ EType.u32.elem? = some .u32 ∧ stateS4.params.accW ≤ elemBits .u32 ∧
    (let s := { stateS4 with dst := { stateS4.dst with w := 3 } };
      s.Idle ∧ elemBits .u8 < s.params.accW ∧ (s.src.w ≠ s.dst.w ∨ s.src.h ≠ s.dst.h)) ∧
    (let s := { stateS4 with dst := { stateS4.dst with h := 1 } };
      s.Idle ∧ elemBits .u8 < s.params.accW ∧ (s.src.w ≠ s.dst.w ∨ s.src.h ≠ s.dst.h)) ∧
    (let s := { stateS4 with dst := { stateS4.dst with z := 2 } };
      s.Idle ∧ elemBits .u8 < s.params.accW ∧ s.src.w = s.dst.w ∧ s.src.h = s.dst.h ∧ s.src.z.toNat < s.dst.z.toNat) := by
  decide

/-- The further clauses of ConvsepRefusedInOrder at the boundary: width 1 (and height 2), and a capacity one short. -/
theorem witness_ConvsepRefusedInOrder :
    (let s := { stateS4 with kaDim := { kw := 1, kh := 1 } };
      s.Idle ∧ CommonPreconditions s .u8 ∧ ¬ Kernels1D s) ∧
    (let s := { stateS4 with kbDim := { kw := 2, kh := 2 } };
      s.Idle ∧ CommonPreconditions s .u8 ∧ ¬ Kernels1D s) ∧
    (let s := { stateS4 with params := { stateS4.params with ibufCap := 3 } };
      s.Idle ∧ CommonPreconditions s .u8 ∧ Kernels1D s ∧ ¬ FitsIbuf s) ∧
    (let s := { stateS4 with params := { stateS4.params with ibufCap := 4 } };
      s.Idle ∧ CommonPreconditions s .u8 ∧ Kernels1D s ∧ FitsIbuf s) := by decide

theorem witness_IssueFrame : stateS4.StatusOk ∧ stateS4.IbufOk := by
  refine ⟨by decide, by decide, fun _ => rfl, by decide⟩

/-! ## The running command -/

/-- A state in IDLE, with no IBUF entry, meets the invariant. -/
theorem inv_of_idle {s : State} (hp : s.params.Legal) (hw : s.status.wf = true) (hb : s.status.busy = false)
    (hq : s.seq = none) (hi : s.ibuf = []) (hz : s.hazard = Hazard.none) (hm : Memory.wf s.mem = true) : s.Inv where
  params := hp
  status := ⟨hw, by simp [hb, hq]⟩
  run := fun q h => by simp [hq] at h
  ibuf := ⟨by simp [hi, cellsWf, cellsAbove], fun _ => hi, by simp [hi]⟩
  hazard := ⟨fun _ => hz, by simp [hz, Hazard.none]⟩
  memory := hm

theorem stateS4_inv : stateS4.Inv :=
  inv_of_idle (by decide) (by decide) rfl rfl rfl rfl (by decide)

/-- For ConvComputesDenseConvolution, ConvsepComputesSeparableConvolution and AnyAcceptedLaunchCompletes. -/
theorem witness_launch :
    stateS4.Inv ∧ stateS4.Idle ∧ stateS4.moves = [] ∧ 63 < 64 ∧ EType.u8.elem? = some .u8 ∧
      CommonPreconditions stateS4 .u8 ∧ Kernels1D stateS4 ∧ FitsIbuf stateS4 ∧ LaunchOk stateS4 .u8 ∧
      (Instr.convsep .u8 63).wellFormed = true ∧ Accepts (.convsep .u8 63) stateS4 .u8 :=
  ⟨stateS4_inv, by decide, rfl, by decide, rfl, by decide, by decide, by decide, by decide, by decide,
    rfl, by decide, by decide, by decide⟩

/-- A launch whose destination lies on its source still is accepted (R88). -/
def stateOverlap : State := { stateS4 with dst := { stateS4.dst with base := 3 } }

theorem witness_AnyAcceptedLaunchCompletes_overlap :
    stateOverlap.Inv ∧ stateOverlap.Idle ∧ stateOverlap.moves = [] ∧ Accepts (.conv .u8 .a 0) stateOverlap .u8 ∧
      ¬ LaunchOk stateOverlap .u8 :=
  ⟨inv_of_idle (by decide) (by decide) rfl rfl rfl rfl (by decide), by decide, rfl, ⟨rfl, by decide⟩, by decide⟩

/-- One sample of one byte, a kernel of one tap, and a schedule with a register read, a move that is not enabled, and a
poll of STATUS. -/
def stateOne : State :=
  { State.reset with
    src := { base := 0, rstride := 1, bstride := 1, w := 1, h := 1, z := 1 }
    dst := { base := 1, rstride := 1, bstride := 1, w := 1, h := 1, z := 1 }
    kaDim := { kw := 1, kh := 1 }
    kaCoef := bankOf [(0, 1)]
    mem := [(0, 7)]
    moves := [.engine (.take 0), .rd 0x010 4, .engine (.lane 0), .engine (.take 0), .await] }

theorem witness_ResultIndependentOfSchedule :
    ∃ v u, stateOne.Inv ∧ stateOne.Idle ∧ (Instr.conv .u8 .a 0).wellFormed = true ∧
      Accepts (.conv .u8 .a 0) stateOne .u8 ∧ LaunchOk stateOne .u8 ∧ stateOne.moves.all Move.harmless = true ∧
      exec (.conv .u8 .a 0) stateOne = .next v ∧ Reaches v 6 u ∧ u.status.busy = false :=
  ⟨_, _, inv_of_idle (by decide) (by decide) rfl rfl rfl rfl (by decide), by decide, by decide,
    ⟨rfl, by decide⟩, by decide, by decide, rfl, rfl, by decide⟩

/-- The same launch with one lane and another schedule. -/
def stateOneLane : State := { stateOne with moves := [.engine .sequence], params := { stateOne.params with nlanes := 1 } }

theorem witness_ResultIndependentOfLanes :
    ∃ v u v' u', stateOne.Inv ∧ stateOne.Idle ∧ (Instr.conv .u8 .a 0).wellFormed = true ∧
      Accepts (.conv .u8 .a 0) stateOne .u8 ∧ LaunchOk stateOne .u8 ∧ 1 ≤ stateOneLane.params.nlanes ∧
      stateOneLane =
        { stateOne with
          moves := stateOneLane.moves, params := { stateOne.params with nlanes := stateOneLane.params.nlanes } } ∧
      stateOne.moves.all Move.harmless = true ∧ stateOneLane.moves.all Move.harmless = true ∧
      exec (.conv .u8 .a 0) stateOne = .next v ∧ Reaches v 6 u ∧ u.status.busy = false ∧
      exec (.conv .u8 .a 0) stateOneLane = .next v' ∧ Reaches v' 5 u' ∧ u'.status.busy = false :=
  ⟨_, _, _, _, inv_of_idle (by decide) (by decide) rfl rfl rfl rfl (by decide), by decide, by decide,
    ⟨rfl, by decide⟩, by decide, by decide, rfl, by decide, by decide, rfl, rfl, by decide, rfl, rfl, by decide⟩

/-- V-S4's CONV in RUN: row 1 is held by one lane. -/
def stateRun : State := running stateS4 (.conv .u8 .a 0) .single 0 [0] [{ y := 1, x := 1, tap := 1, acc := 3 }]

theorem stateRun_inv : stateRun.Inv where
  params := by decide
  status := by decide
  run := by
    intro q h
    cases h
    exact ⟨.u8, ⟨by decide, by decide, rfl, rfl, by decide, by decide, by decide, by decide, by decide⟩,
      ⟨by decide, by decide, by decide, by decide, by decide, by decide, by decide, by decide⟩⟩
  ibuf := ⟨by decide, by decide, by decide⟩
  hazard := ⟨by decide, by simp [stateRun, running, stateS4, State.reset, Hazard.none]⟩
  memory := by decide

theorem witness_EveryRunEnds : stateRun.Inv ∧ stateRun.status.busy = true ∧
    (∀ m ∈ stateRun.moves, m = .await ∨ ∃ e, m = .engine e) ∧
    ∀ m ∈ [Move.engine .sequence, .await], m = .await ∨ ∃ e, m = .engine e :=
  ⟨stateRun_inv, rfl, by simp [stateRun, running, stateS4, State.reset], by simp⟩

/-- For StepKeepsInvariant, StepKeepsMemoryCanonical, StepKeepsStatusConsistent, StepWritesOnlyDestination (while a command
runs). -/
theorem witness_step_while_running : ∃ u, stateRun.Inv ∧ Memory.wf stateRun.mem = true ∧ stateRun.StatusOk ∧
    step stateRun = .next u ∧ cmdType stateRun = some .u8 ∧ 15 < memSize ∧
    15 ∉ footprint stateRun.dst .u8 stateRun.dst.z.toNat ∧ (∀ b rest, stateRun.moves ≠ .memWrite b 0 :: rest) :=
  ⟨_, stateRun_inv, by decide, by decide, rfl, by decide, by decide, by decide, fun b rest h => by
    cases h⟩

theorem witness_step_while_idle : ∃ u, stateS4.Inv ∧ step stateS4 = .next u ∧ stateS4.status.busy = false ∧
    (∀ a b rest, stateS4.moves ≠ .memWrite a b :: rest) :=
  ⟨_, stateS4_inv, rfl, rfl, fun _ _ _ h => by cases h⟩

/-- In FAULT, with a write to CTRL that is no soft reset. -/
def stateFault : State := { withStatus false false true 3 with moves := [.wr 0x00C 4 0x7FFFFFFF#32] }

theorem witness_FaultIsSticky : ∃ u, stateFault.StatusOk ∧ stateFault.status.err = true ∧ step stateFault = .next u ∧
    (∀ rest, stateFault.moves ≠ .hardwareReset :: rest) ∧
    (∀ v rest, v.getLsbD 31 = true → stateFault.moves ≠ .wr 0x00C 4 v :: rest) ∧
    (∀ a b rest, stateFault.moves ≠ .memWrite a b :: rest) := by
  have hm : stateFault.moves = [.wr 0x00C 4 0x7FFFFFFF#32] := rfl
  refine ⟨_, by decide, rfl, rfl, by simp [hm], ?_, by simp [hm]⟩
  rintro v rest hv h
  rw [hm] at h
  simp only [List.cons.injEq, Move.wr.injEq, true_and] at h
  rw [← h.1] at hv
  revert hv
  decide

/-- V-S4's raster with a second band in both places. -/
def stateTwoBands : State :=
  { stateS4 with src := { stateS4.src with z := 2 }, dst := { stateS4.dst with z := 2 } }

/-- Both sides: within a band, to the next band, and to the next pass. -/
theorem witness_BandAndPassBarriers :
    (∃ q q', stateRun.seq = some q ∧ (engineStep (.lane 0) stateRun).seq = some q') ∧
    (∃ q q', (running stateTwoBands (.conv .u8 .a 0) .single 0 [0, 1] []).seq = some q ∧
      (engineStep .sequence (running stateTwoBands (.conv .u8 .a 0) .single 0 [0, 1] [])).seq = some q' ∧ q'.z = 1) ∧
    (∃ q q', (running stateS4 (.convsep .u8 0) .sep1 0 [0, 1] []).seq = some q ∧
      (engineStep .sequence (running stateS4 (.convsep .u8 0) .sep1 0 [0, 1] [])).seq = some q' ∧ q'.pass = .sep2) :=
  ⟨⟨_, _, rfl, rfl⟩, ⟨_, _, rfl, rfl, rfl⟩, ⟨_, _, rfl, rfl, rfl⟩⟩

/-- A tap inside the raster, and one outside it (the lane's last tap of the last column). -/
theorem witness_LaneAddsOneTap :
    stateRun.status.busy = true ∧ cmdType stateRun = some .u8 ∧
    stateRun.seq = some { pass := .single, z := 0, rowsDone := [0], lanes := [{ y := 1, x := 1, tap := 1, acc := 3 }] } ∧
    [({ y := 1, x := 1, tap := 1, acc := 3 } : Lane)][0]? = some { y := 1, x := 1, tap := 1, acc := 3 } ∧
    1 < tapCount stateRun .single := by decide

/-- For LaneStoresQuantizedSample: all two taps are in ACC, in pass SINGLE and in pass 1 of CONVSEP. -/
theorem witness_LaneStoresQuantizedSample :
    (let s := running stateS4 (.conv .u8 .a 0) .single 0 [] [{ y := 0, x := 0, tap := 2, acc := 3 }];
      s.status.busy = true ∧ cmdType s = some .u8 ∧ tapCount s .single ≤ 2 ∧ s.hazard.spoiled = false) ∧
    (let s := running stateS4 (.convsep .u8 0) .sep1 0 [] [{ y := 1, x := 1, tap := 2, acc := 4 }];
      s.status.busy = true ∧ cmdType s = some .u8 ∧ tapCount s .sep1 ≤ 2 ∧ s.hazard.spoiled = false) ∧
    [({ y := 0, x := 0, tap := 2, acc := 3 } : Lane)][0]? = some { y := 0, x := 0, tap := 2, acc := 3 } := by decide

/-- A free row; a row out of range, no free lane, a finished row, a held row. -/
theorem witness_LaneTakesFreeRow :
    let s := running stateS4 (.conv .u8 .a 0) .single 0 [] [{ y := 1, x := 0, tap := 0, acc := 0 }]
    s.status.busy = true ∧ 0 < rasterH s ∧ 1 < s.params.nlanes ∧ (0 ∉ ([] : List Nat)) ∧
      (∀ l ∈ [({ y := 1, x := 0, tap := 0, acc := 0 } : Lane)], l.y ≠ 0) ∧ rasterH s ≤ 2 ∧
      (∃ l ∈ [({ y := 1, x := 0, tap := 0, acc := 0 } : Lane)], l.y = 1) ∧ (0 ∈ [0]) ∧
      ({ s with params := { s.params with nlanes := 1 } } : State).params.nlanes ≤ 1 := by decide

/-! ## The register port -/

theorem witness_CtrlWriteAndSoftReset :
    (0x80000000#32).getLsbD 31 = true ∧ stateS4.status.busy = false ∧ (0x7FFFFFFF#32).getLsbD 31 = false ∧
      stateRun.status.busy = true ∧
      ({ stateRun with moves := [.wr 0x00C 4 0x80000000#32] } : State).moves = .wr 0x00C 4 0x80000000#32 :: [] := by decide

theorem witness_HardwareResetState :
    Memory.wf stateRun.mem = true ∧ ({ stateRun with moves := [.hardwareReset] } : State).moves = .hardwareReset :: [] ∧
      cmdType stateRun = some .u8 ∧ stateS4.status.busy = false ∧ Memory.wf stateS4.mem = true := by decide

theorem witness_StatusWrite :
    ({ stateS4 with moves := [.wr 0x010 4 2#32] } : State).moves = .wr 0x010 4 2#32 :: [] ∧
      stateS4.status.busy = false ∧ (2#32).getLsbD 1 = true ∧ (0xFFFFFFFD#32).getLsbD 1 = false ∧
      stateRun.status.busy = true := by decide

theorem witness_BusyLock :
    stateRun.status.busy = true ∧ 0xFFC % 4 = 0 ∧ 0xFFC < 4096 ∧ 0x010 % 4 = 0 ∧ 0x010 ≠ 0x00C ∧
      ({ stateRun with moves := [.wr 0x010 4 2#32] } : State).moves = .wr 0x010 4 2#32 :: [] := by decide

theorem witness_RegisterReadFormats : State.reset.params.accW < 256 ∧
    ({ stateRun with moves := [.rd (regOffset (.kbCoef 255)) 4] } : State).moves = .rd (regOffset (.kbCoef 255)) 4 :: [] :=
  ⟨by decide, rfl⟩

/-- For ReadAfterRegisterWrite and RegisterWriteFrame. -/
theorem witness_register_write : State.reset.status.busy = false ∧ Reg.srcSize ∈ [Reg.srcSize] ∧ Reg.status ≠ .ctrl ∧
    Reg.status ≠ .cmd ∧ Reg.kaCoef 255 ≠ .ctrl ∧ Reg.kaCoef 254 ≠ .kaCoef 255 ∧
    ({ State.reset with moves := [.wr (regOffset .status) 4 2#32] } : State).moves = .wr (regOffset .status) 4 2#32 :: [] := by
  decide

theorem witness_RegisterMap : regAt 0xBFC = some (.kbCoef 255) ∧ regAt 0x7FC = some (.kaCoef 255) := by decide

/-- For ReservedOffsets: the ends of every range. -/
theorem witness_ReservedOffsets :
    ∀ off ∈ [0x01C, 0x034, 0x03C, 0x054, 0x05C, 0x068, 0x3FC, 0xC00, 0xFFC], off % 4 = 0 ∧
      (off = 0x01C ∨ (0x034 ≤ off ∧ off ≤ 0x03C) ∨ (0x054 ≤ off ∧ off ≤ 0x05C) ∨ (0x068 ≤ off ∧ off ≤ 0x3FC) ∨
        (0xC00 ≤ off ∧ off ≤ 0xFFC)) ∧
      ({ State.reset with moves := [.rd off 4] } : State).moves = .rd off 4 :: [] ∧
      ({ State.reset with moves := [.wr off 4 1#32] } : State).moves = .wr off 4 1#32 :: [] := by decide

/-- For UndefinedAccessesRefused: a byte, a word at 2, the first word past the window. -/
theorem witness_UndefinedAccessesRefused :
    (1 ≠ 4 ∨ 0 % 4 ≠ 0 ∨ 4096 ≤ 0) ∧ (4 ≠ 4 ∨ 2 % 4 ≠ 0 ∨ 4096 ≤ 2) ∧ (4 ≠ 4 ∨ 4096 % 4 ≠ 0 ∨ 4096 ≤ 4096) ∧
      ({ State.reset with moves := [.rd 4096 4] } : State).moves = .rd 4096 4 :: [] ∧
      ({ State.reset with moves := [.wr 2 4 0#32] } : State).moves = .wr 2 4 0#32 :: [] := by decide

theorem witness_RegisterReadChangesNothing : 0xFFC % 4 = 0 ∧ 0xFFC < 4096 ∧
    ({ stateRun with moves := [.rd 0xFFC 4] } : State).moves = .rd 0xFFC 4 :: [] := by decide

theorem witness_InterruptOutput :
    stateRun.StatusOk ∧ stateRun.status.busy = true ∧ stateRun.status.err = false ∧
      CompletedFrom stateRun (complete stateRun) :=
  ⟨by decide, rfl, rfl, ⟨by decide, by decide, by decide⟩⟩

/-! ## Arithmetic -/

/-- For TapSumWrapsExactSum and NoWrapUnderBound: a kernel of one coefficient over u8 samples, where the bound is met with
equality in 9 bits. -/
theorem witness_NoWrapUnderBound :
    0 < 9 ∧ (∀ yy xx : Nat, tMin .u8 ≤ (fun _ _ => 255 : Nat → Nat → Int) yy xx ∧
      (fun _ _ => 255 : Nat → Nat → Int) yy xx ≤ tMax .u8) ∧
    (((List.range 1).map fun ky => ((List.range 1).map fun kx => |(fun _ _ => 1 : Nat → Nat → Int) ky kx|).sum).sum) *
      max |tMin .u8| (tMax .u8) ≤ accMax 9 :=
  ⟨by decide, fun _ _ => by simp [tMin, tMax, elemSigned, elemBits], by decide⟩

/-- For QuantizerClosedForm: the narrowest accumulators of two types. -/
theorem witness_quantizer_width : elemBits .u8 < 9 ∧ elemBits .s32 < 33 := by decide

theorem witness_ShiftBeyondWidth :
    0 < 32 ∧ accMin 32 ≤ accMax 32 ∧ accMax 32 ≤ accMax 32 ∧ 32 - 1 ≤ 31 ∧ (0 : Int) ≤ accMax 32 ∧ accMin 32 < 0 := by decide

theorem witness_SeparableEqualsDense :
    elemBits .u8 < stateS4.params.accW ∧ 1 < rasterH stateS4 ∧ 1 < rasterW stateS4 ∧
      ∀ yy xx, yy < rasterH stateS4 → xx < rasterW stateS4 →
        tMin .u8 ≤ rowSum stateS4 .u8 0 yy xx ∧ rowSum stateS4 .u8 0 yy xx ≤ tMax .u8 :=
  ⟨by decide, by decide, by decide, fun yy xx hy hx => by
    have h : ∀ yy < 2, ∀ xx < 2, tMin .u8 ≤ rowSum stateS4 .u8 0 yy xx ∧ rowSum stateS4 .u8 0 yy xx ≤ tMax .u8 := by
      decide +kernel
    exact h yy hy xx hx⟩

theorem witness_ContributingTapCount : 0 < 1 ∧ 4 < 5 := by decide

theorem witness_IdentityKernelCopies :
    elemBits .u8 < stateOne.params.accW ∧ 0 < rasterW stateOne ∧ 0 < rasterH stateOne ∧
      bankDim stateOne .a = { kw := 1, kh := 1 } ∧ bankCoef stateOne .a 0 0 = 1 ∧ stateOne.offset = 0 := by decide +kernel

theorem witness_EmptyKernelStoresOffset :
    elemBits .u8 < State.reset.params.accW ∧ (bankDim State.reset .a).kw = 0 ∧
      (bankDim { State.reset with kbDim := { kw := 3, kh := 0 } } .b).kh = 0 := by decide

/-! ## Raster memory -/

/-- For MemReadAfterMemWrite and SampleLoadAndStore: an access of four bytes that wraps, and a byte outside it. -/
theorem witness_MemReadAfterMemWrite :
    Memory.wf [(0, 0x12#8), (0xFFFFFFFF, 0x34#8)] = true ∧ 4 ≤ 4 ∧ wrapAddr 3 ∉ accessBytes 0xFFFFFFFF 4 ∧
      3 < memSize ∧ 3 ∉ sampleBytes { descM1 with base := 0xFFFFFFFF } .u32 0 0 0 := by decide

/-- For DenseLayoutSeparatesSamples: rows and bands that touch, ending exactly at 2^32. -/
theorem witness_DenseLayoutSeparatesSamples :
    DenseLayout { base := 0xFFFFFFF0, rstride := 4, bstride := 8, w := 2, h := 2, z := 2 } .u16 := by decide

theorem witness_HostMemoryWrite :
    memSize ≤ memSize ∧ memSize - 1 < memSize ∧ Memory.wf stateRun.mem = true ∧ stateS4.status.busy = false ∧
      stateRun.status.busy = true ∧ cmdType stateRun = some .u8 ∧
      3 ∈ footprint stateRun.src .u8 stateRun.src.z.toNat ∧ 16 ∈ footprint stateRun.dst .u8 stateRun.dst.z.toNat ∧
      ({ stateRun with moves := [.memWrite 3 0#8] } : State).moves = .memWrite 3 0#8 :: [] := by decide

/-! ## The host notation -/

theorem witness_PseudoInstructionsWriteOffset :
    (some 63 : Option Nat).getD 0 < 64 ∧ (none : Option Nat).getD 0 < 64 ∧ 64 ≤ 64 ∧
      ((-32769 : Int) < -32768 ∨ (32767 : Int) < -32769) ∧ ((32768 : Int) < -32768 ∨ (32767 : Int) < 32768) := by decide

end Sys2Proof.Tests
end

section
/-! SUPPORT. The register port's reserved offsets and its two accesses there, the commands' meanings, and everything that
one step can do, said once (`StepEffect`). -/

namespace Sys2Proof.Machine

/-! ### The register map -/

/-- Above the dimension registers the map holds the two banks and nothing else (R22, R33). -/
theorem regAt_of_above_dims {off : Nat} (h : 0x068 ≤ off) :
    regAt off =
      if off % 4 ≠ 0 then none
      else if 0x400 ≤ off ∧ off < 0x800 then some (.kaCoef (Fin.ofNat 256 ((off - 0x400) / 4)))
      else if 0x800 ≤ off ∧ off < 0xC00 then some (.kbCoef (Fin.ofNat 256 ((off - 0x800) / 4)))
      else none := by
  unfold regAt
  split
  case h_20 => rfl
  all_goals omega

/-- Entry `n` of bank A sits at 0x400 + 4n (R33). -/
theorem regAt_kaCoef (n : Fin 256) : regAt (0x400 + 4 * n.val) = some (.kaCoef n) := by
  have hn : Fin.ofNat 256 ((0x400 + 4 * n.val - 0x400) / 4) = n := by
    apply Fin.ext
    simp only [Fin.ofNat]
    omega
  rw [regAt_of_above_dims (by omega), if_neg (by omega), if_pos (by omega), hn]

/-- Entry `n` of bank B sits at 0x800 + 4n (R33). -/
theorem regAt_kbCoef (n : Fin 256) : regAt (0x800 + 4 * n.val) = some (.kbCoef n) := by
  have hn : Fin.ofNat 256 ((0x800 + 4 * n.val - 0x800) / 4) = n := by
    apply Fin.ext
    simp only [Fin.ofNat]
    omega
  rw [regAt_of_above_dims (by omega), if_neg (by omega), if_neg (by omega), if_pos (by omega), hn]

/-- The access at a register's offset is to that register (R22, R33). -/
@[simp] theorem regAt_regOffset (r : Reg) : regAt (regOffset r) = some r := by
  cases r with
  | kaCoef n => exact regAt_kaCoef n
  | kbCoef n => exact regAt_kbCoef n
  | _ => rfl

/-- Above the dimension registers an offset that names a register is that register's offset (R33). -/
theorem regOffset_of_regAt_above_dims {off : Nat} {r : Reg} (hoff : 0x068 ≤ off) (h : regAt off = some r) :
    off = regOffset r := by
  rw [regAt_of_above_dims hoff] at h
  split at h
  · cases h
  · split at h
    · cases h
      simp only [regOffset, Fin.ofNat]
      omega
    · split at h
      · cases h
        simp only [regOffset, Fin.ofNat]
        omega
      · cases h

/-- No other offset names a register (R22, R33). -/
theorem regOffset_of_regAt {off : Nat} {r : Reg} (h : regAt off = some r) : off = regOffset r := by
  by_cases hoff : 0x068 ≤ off
  · exact regOffset_of_regAt_above_dims hoff h
  · unfold regAt at h
    split at h
    case h_20 =>
      rw [if_neg (show ¬ (0x400 ≤ off ∧ off < 0x800) by omega),
        if_neg (show ¬ (0x800 ≤ off ∧ off < 0xC00) by omega)] at h
      split at h <;> cases h
    all_goals cases h; rfl

/-- Every register's offset is a multiple of 4 inside the window, so the 32-bit access there is defined (R22, R211). -/
theorem regOffset_aligned (r : Reg) : regOffset r % 4 = 0 ∧ regOffset r < 4096 := by
  cases r with
  | kaCoef n => simp only [regOffset]; omega
  | kbCoef n => simp only [regOffset]; omega
  | _ => decide

/-- An aligned 32-bit access inside the window is defined (R211). -/
theorem definedAccess_word {off : Nat} (h4 : off % 4 = 0) (hoff : off < 4096) : definedAccess off 4 = true := by
  simp [definedAccess, h4, hoff]

/-- The offsets of R34 hold no register. -/
theorem regAt_reserved {off : Nat} (h4 : off % 4 = 0)
    (h : off = 0x01C ∨ (0x034 ≤ off ∧ off ≤ 0x03C) ∨ (0x054 ≤ off ∧ off ≤ 0x05C) ∨ (0x068 ≤ off ∧ off ≤ 0x3FC) ∨
      (0xC00 ≤ off ∧ off ≤ 0xFFC)) : regAt off = none := by
  by_cases hoff : 0x068 ≤ off
  · rw [regAt_of_above_dims hoff, if_neg (by omega), if_neg (by omega), if_neg (by omega)]
  · have : off = 0x01C ∨ off = 0x034 ∨ off = 0x038 ∨ off = 0x03C ∨ off = 0x054 ∨ off = 0x058 ∨ off = 0x05C := by
      omega
    rcases this with rfl | rfl | rfl | rfl | rfl | rfl | rfl <;> rfl

/-- A reserved offset reads 0 (R34). -/
theorem readOffset_of_reserved {off : Nat} (h : regAt off = none) (s : State) : readOffset s off = 0 := by
  simp [readOffset, h]

/-- A defined write at a reserved offset is ignored (R34). -/
theorem portWrite_of_reserved {off size : Nat} (hd : definedAccess off size = true) (h : regAt off = none) (v : Word)
    (s : State) : portWrite off size v s = .next s := by
  simp [portWrite, hd, writeOffset, h]

/-- A defined read answers with the word (R201). -/
theorem portRead_of_defined {off size : Nat} (hd : definedAccess off size = true) (s : State) :
    portRead off size s = .next { s with rdata := readOffset s off } := by
  simp [portRead, hd]

/-- The 32-bit write at CMD's offset is the CMD write (R22, R205). -/
theorem portWrite_cmd (w : Word) (s : State) : portWrite (regOffset .cmd) 4 w s = writeCmd w s := rfl

/-! ### The commands -/

/-- In RUN and in FAULT an issue is ignored (R30, R205). -/
theorem issue_of_not_idle {s : State} (h : s.status.busy = true ∨ s.status.err = true) (i : Instr) (p : Pass)
    (verdict : Option Cause) : issue i p verdict s = s := by
  rcases issue_cases i p verdict s with ⟨_, e⟩ | ⟨hb, he, _⟩
  · exact e
  · simp [hb, he] at h

/-- The issue of an ILLEGAL word is ignored, or raises ILLEGAL_CMD (R205, R226). -/
theorem issueIllegal_cases (s : State) :
    ((s.status.busy = true ∨ s.status.err = true) ∧ issueIllegal s = s) ∨
      (s.Idle ∧ issueIllegal s = raise .illegalCmd (clearDone s)) := by
  unfold issueIllegal issueAllowed State.Idle
  cases s.status.busy <;> cases s.status.err <;> simp

/-- In RUN and in FAULT an ILLEGAL word is ignored too (R205). -/
theorem issueIllegal_of_not_idle {s : State} (h : s.status.busy = true ∨ s.status.err = true) : issueIllegal s = s := by
  rcases issueIllegal_cases s with ⟨_, e⟩ | ⟨⟨hb, he⟩, _⟩
  · exact e
  · simp [hb, he] at h

/-- In RUN and in FAULT every command is ignored (R30, R205). -/
theorem exec_of_not_idle {s : State} (h : s.status.busy = true ∨ s.status.err = true) (i : Instr) :
    exec i s = .next s := by
  cases i with
  | nop => rfl
  | conv e k r => exact congrArg Host.Outcome.next (issue_of_not_idle h _ _ _)
  | convsep e r => exact congrArg Host.Outcome.next (issue_of_not_idle h _ _ _)

/-- In RUN and in FAULT a CMD write of any word is ignored (R30, R205). -/
theorem writeCmd_of_not_idle {s : State} (h : s.status.busy = true ∨ s.status.err = true) (w : Word) :
    writeCmd w s = .next s := by
  unfold writeCmd
  split
  · exact exec_of_not_idle h _
  · rw [issueIllegal_of_not_idle h]

/-- CMDL of a latched CONV names the command's element type (R30, R103). -/
theorem cmdType_conv (s : State) (e : EType) (k : Bank) (r : Nat) :
    cmdType { s with cmdl := (encode (.conv e k r)).setWidth 14 } = e.elem? := by
  simp [cmdType, encode]

/-- CMDL of a latched CONVSEP names the command's element type (R30, R103). -/
theorem cmdType_convsep (s : State) (e : EType) (r : Nat) :
    cmdType { s with cmdl := (encode (.convsep e r)).setWidth 14 } = e.elem? := by
  simp [cmdType, encode]

/-- What a write to CMD can do (R205). -/
inductive CommandEffect (s : State) : State → Prop where
  /-- nothing: the word is a NOP, or the engine is in RUN or in FAULT -/
  | ignored : CommandEffect s s
  /-- the command is refused with cause `c`, or the word is ILLEGAL -/
  | refused (c : Cause) (idle : s.Idle) : CommandEffect s (raise c (clearDone s))
  /-- the command `i` is accepted with element type `t`, its first pass being `p`; past the checks both commands share,
  those of CONVSEP were made if `p` is not CONV's pass -/
  | accepted (i : Instr) (p : Pass) (t : ElemType) (idle : s.Idle)
      (type : cmdType { s with cmdl := (encode i).setWidth 14 } = some t) (common : CommonPreconditions s t)
      (separable : p ≠ .single → not1dViolated s = false ∧ capacityViolated s = false) :
      CommandEffect s (accept ((encode i).setWidth 14) p (clearDone s))

/-- The issue of CONV is one of these. -/
theorem issue_conv_effect (e : EType) (k : Bank) (r : Nat) (s : State) :
    CommandEffect s (issue (.conv e k r) .single (checkConv e s) s) := by
  rcases issue_cases (.conv e k r) .single (checkConv e s) s with ⟨_, h⟩ | ⟨hb, he, ⟨c, _, h⟩ | ⟨hv, h⟩⟩ <;> rw [h]
  · exact .ignored
  · exact .refused c ⟨hb, he⟩
  · obtain ⟨t, ht, common⟩ := (checkConv_eq_none e s).1 hv
    exact .accepted _ _ t ⟨hb, he⟩ (by rw [cmdType_conv, ht]) common (by simp)

/-- The issue of CONVSEP is one of these. -/
theorem issue_convsep_effect (e : EType) (r : Nat) (s : State) :
    CommandEffect s (issue (.convsep e r) .sep1 (checkConvsep e s) s) := by
  rcases issue_cases (.convsep e r) .sep1 (checkConvsep e s) s with ⟨_, h⟩ | ⟨hb, he, ⟨c, _, h⟩ | ⟨hv, h⟩⟩ <;> rw [h]
  · exact .ignored
  · exact .refused c ⟨hb, he⟩
  · obtain ⟨hconv, separable⟩ := (checkConvsep_eq_none e s).1 hv
    obtain ⟨t, ht, common⟩ := (checkConv_eq_none e s).1 hconv
    exact .accepted _ _ t ⟨hb, he⟩ (by rw [cmdType_convsep, ht]) common fun _ => separable

/-- A write to CMD always answers, and does one of these. -/
theorem writeCmd_effect (w : Word) (s : State) : ∃ u, writeCmd w s = .next u ∧ CommandEffect s u := by
  unfold writeCmd
  split
  · rename_i i _
    cases i with
    | nop => exact ⟨s, rfl, .ignored⟩
    | conv e k r => exact ⟨_, rfl, issue_conv_effect e k r s⟩
    | convsep e r => exact ⟨_, rfl, issue_convsep_effect e r s⟩
  · refine ⟨_, rfl, ?_⟩
    rcases issueIllegal_cases s with ⟨_, h⟩ | ⟨idle, h⟩ <;> rw [h]
    · exact .ignored
    · exact .refused _ idle

/-! ### One step -/

/-- What a step that answers next can do. Where what the step does is a move's, the constructor names the move. -/
inductive StepEffect (s : State) : State → Prop where
  /-- nothing but the model's own fields for the host: a wait outside a run, a read, the end of a poll, a write at a
  reserved offset -/
  | passed (w : Word) (rest : List Move) : StepEffect s { s with rdata := w, moves := rest }
  /-- an agent of the engine takes a step -/
  | engine (m : EngineMove) (rest : List Move) : StepEffect s (engineStep m { s with moves := rest })
  /-- the host writes a register other than CMD -/
  | register (off size : Nat) (r : Reg) (v : Word) (rest : List Move) (move : s.moves = .wr off size v :: rest)
      (place : regAt off = some r) (notCmd : r ≠ .cmd) : StepEffect s (writeReg r v { s with moves := rest })
  /-- the host writes CMD -/
  | command (rest : List Move) (u : State) (effect : CommandEffect { s with moves := rest } u) : StepEffect s u
  /-- the host writes a byte of raster memory -/
  | memory (a : Nat) (b : Byte) (rest : List Move) (move : s.moves = .memWrite a b :: rest) (inside : a < memSize) :
      StepEffect s (hostMemWrite a b { s with moves := rest })
  /-- the reset input is asserted -/
  | reset (rest : List Move) (move : s.moves = .hardwareReset :: rest) :
      StepEffect s (hardwareReset { s with moves := rest })

/-- A register write that answers next is one of these. -/
theorem portWrite_effect {s u : State} {off size : Nat} {v : Word} {rest : List Move}
    (move : s.moves = .wr off size v :: rest) (h : portWrite off size v { s with moves := rest } = .next u) :
    StepEffect s u := by
  rcases portWrite_cases off size v { s with moves := rest } with
    ⟨_, e⟩ | ⟨_, ⟨_, e⟩ | ⟨_, e⟩ | ⟨r, place, notCmd, e⟩⟩ <;> rw [e] at h
  · cases h
  · cases h
    exact .passed s.rdata rest
  · obtain ⟨u', e', effect⟩ := writeCmd_effect v { s with moves := rest }
    rw [e'] at h
    cases h
    exact .command rest _ effect
  · cases h
    exact .register off size r v rest move place notCmd

/-- With no move pending a step is one of these. -/
theorem unattended_effect (s : State) : StepEffect s (unattended s) := by
  unfold unattended
  split
  · exact .engine (defaultMove s) s.moves
  · exact .passed s.rdata s.moves

/-- The poll of STATUS is one of these. -/
theorem pollStatus_effect (rest : List Move) (s : State) : StepEffect s (pollStatus rest s) := by
  unfold pollStatus
  split
  · exact .engine (defaultMove s) s.moves
  · exact .passed _ _

/-- A host write of raster memory that answers next is one of these. -/
theorem hostWrite_effect {s u : State} {a : Nat} {b : Byte} {rest : List Move}
    (move : s.moves = .memWrite a b :: rest) (h : hostWrite a b { s with moves := rest } = .next u) :
    StepEffect s u := by
  unfold hostWrite at h
  split at h
  · rename_i ha
    cases h
    exact .memory a b rest move ha
  · cases h

/-- Every step that answers next is one of these. -/
theorem step_effect {s u : State} (h : step s = .next u) : StepEffect s u := by
  cases hm : s.moves with
  | nil =>
    rw [step_nil hm] at h
    cases h
    exact unattended_effect s
  | cons m rest =>
    rw [step_cons hm] at h
    cases m with
    | rd off size =>
      rcases portRead_cases off size { s with moves := rest } with ⟨_, e⟩ | ⟨_, e⟩ <;> cases e.symm.trans h
      exact .passed _ rest
    | wr off size v => exact portWrite_effect hm h
    | await =>
      cases h
      exact pollStatus_effect rest s
    | memWrite a b => exact hostWrite_effect hm h
    | hardwareReset =>
      cases h
      exact .reset rest hm
    | engine m =>
      cases h
      exact .engine m rest

end Sys2Proof.Machine
end

section
/-! SUPPORT. What an engine step leaves unchanged, and what the take of a row and a host write of raster memory do. -/

namespace Sys2Proof.Machine

/-! ### The frame of an engine step -/

/-- The registers that no step of a running command writes (R35, R144), and the model's fields for the host. -/
structure SameHostSide (s u : State) : Prop where
  operands : SameOperands s u
  cmdl : u.cmdl = s.cmdl
  rdata : u.rdata = s.rdata
  moves : u.moves = s.moves

theorem sameHostSide_refl (s : State) : SameHostSide s s :=
  ⟨⟨rfl, rfl, rfl, rfl, rfl, rfl, rfl, rfl, rfl⟩, rfl, rfl, rfl⟩

/-- SEQ is not among those fields. -/
theorem SameHostSide.withSeq {s u : State} (h : SameHostSide s u) (q : Option Seq) :
    SameHostSide s { u with seq := q } := by
  obtain ⟨⟨h1, h2, h3, h4, h5, h6, h7, h8, h9⟩, h10, h11, h12⟩ := h
  exact ⟨⟨h1, h2, h3, h4, h5, h6, h7, h8, h9⟩, h10, h11, h12⟩

theorem complete_sameHostSide (s : State) : SameHostSide s (complete s) := by
  rw [complete_eq]
  exact ⟨⟨rfl, rfl, rfl, rfl, rfl, rfl, rfl, rfl, rfl⟩, rfl, rfl, rfl⟩

theorem passOut_sameHostSide (s : State) (t : ElemType) (p : Pass) (z y x : Nat) (pat : BitVec 32) :
    SameHostSide s (passOut s t p z y x pat) := by
  rcases passOut_cases s t p z y x pat with ⟨_, e⟩ | ⟨_, _, e⟩ | ⟨_, _, e⟩ <;> rw [e] <;>
    exact ⟨⟨rfl, rfl, rfl, rfl, rfl, rfl, rfl, rfl, rfl⟩, rfl, rfl, rfl⟩

/-- What the start of a pass, or the end of one, comes to: the command completes, or a pass that is not empty begins. A
pass of CONVSEP only follows a pass of CONVSEP. -/
inductive PassEffect (s : State) (p : Pass) : State → Prop where
  | completed : PassEffect s p (complete s)
  | began (p' : Pass) (nonempty : passEmpty s p' = false) (separable : p' ≠ .single → p ≠ .single) :
      PassEffect s p { s with seq := some (freshSeq p') }

theorem startPass_effect (p : Pass) (s : State) : PassEffect s p (startPass p s) := by
  rcases startPass_cases p s with ⟨nonempty, e⟩ | ⟨_, e⟩ | ⟨rfl, _, nonempty, e⟩ <;> rw [e]
  · exact .began p nonempty id
  · exact .completed
  · exact .began .sep2 nonempty (by simp)

/-- What may follow a pass of CONVSEP may follow the other one. -/
theorem PassEffect.afterSeparable {s u : State} {p p' : Pass} (h : PassEffect s p u) (hp : p' ≠ .single) :
    PassEffect s p' u := by
  cases h with
  | completed => exact .completed
  | began p'' nonempty _ => exact .began p'' nonempty fun _ => hp

theorem finishPass_effect (p : Pass) (s : State) : PassEffect s p (finishPass p s) := by
  rcases finishPass_cases p s with ⟨_, e⟩ | ⟨rfl, e⟩ <;> rw [e]
  · exact .completed
  · exact (startPass_effect .sep2 s).afterSeparable (by decide)

theorem PassEffect.sameHostSide {s u : State} {p : Pass} (h : PassEffect s p u) : SameHostSide s u := by
  cases h with
  | completed => exact complete_sameHostSide s
  | began p' _ _ => exact (sameHostSide_refl s).withSeq _

/-- A step of the engine keeps what the host has put in place (R35, R144). -/
theorem EngineEffect.sameHostSide {s u : State} (h : EngineEffect s u) : SameHostSide s u := by
  cases h with
  | idle => exact sameHostSide_refl s
  | took q y run seq row lane free => exact (sameHostSide_refl s).withSeq _
  | tapped q t k l run seq type lane tap => exact (sameHostSide_refl s).withSeq _
  | stored q t k l run seq type lane tap => exact (passOut_sameHostSide s t _ _ _ _ _).withSeq _
  | nextBand q run seq done more => exact (sameHostSide_refl s).withSeq _
  | endPass q run seq done last => exact (finishPass_effect q.pass s).sameHostSide

/-! ### Taking a row -/

/-- A row is free exactly if it is neither done nor held (R39 item 2). -/
theorem rowFree_iff {q : Seq} {y : Nat} : rowFree q y = true ↔ y ∉ q.rowsDone ∧ ∀ l ∈ q.lanes, l.y ≠ y := by
  simp [rowFree]

/-- In RUN a take is the take of a row by a free lane (R38, R143). -/
theorem engineStep_take {s : State} {q : Seq} (run : s.status.busy = true) (seq : s.seq = some q) (y : Nat) :
    engineStep (.take y) s =
      if y < rasterH s ∧ q.lanes.length < s.params.nlanes ∧ rowFree q y = true then
        { s with seq := some { q with lanes := q.lanes ++ [{ y := y, x := 0, tap := 0, acc := 0 }] } }
      else s := by
  simp [engineStep, run, takeRow, seq]

/-! ### Host writes of raster memory -/

/-- A host write of raster memory writes its byte, and nothing else but the notes on R88 (R44). -/
theorem hostMemWrite_eq (a : Nat) (b : Byte) (s : State) :
    hostMemWrite a b s = { s with mem := writeByte s.mem a b, hazard := (hostMemWrite a b s).hazard } := by
  rcases hostMemWrite_cases a b s with ⟨_, e⟩ | ⟨_, t, _, e⟩ <;> rw [e]

/-- Outside a run a host write of raster memory notes nothing. -/
theorem hostMemWrite_hazard_of_not_busy {s : State} (h : s.status.busy = false) (a : Nat) (b : Byte) :
    (hostMemWrite a b s).hazard = s.hazard := by
  rcases hostMemWrite_cases a b s with ⟨_, e⟩ | ⟨run, _⟩
  · rw [e]
  · simp [h] at run

/-- During a run of element type `t` a host write of a byte of FP(SRC, T) spoils the run, and one of a byte of FP(DST, T)
is noted (R88; log 11). -/
theorem hostMemWrite_hazard_of_run {s : State} {t : ElemType} (run : s.status.busy = true) (type : cmdType s = some t)
    (a : Nat) (b : Byte) :
    (hostMemWrite a b s).hazard =
      { spoiled := s.hazard.spoiled || (footprint s.src t s.src.z.toNat).contains a
        touched :=
          if (footprint s.dst t s.dst.z.toNat).contains a then insertRising a s.hazard.touched
          else s.hazard.touched } := by
  rcases hostMemWrite_cases a b s with ⟨h, _⟩ | ⟨_, t', type', e⟩
  · simp [run, type] at h
  · cases type.symm.trans type'
    rw [e]

/-- A byte of raster memory written by its address reads back, and every other byte reads as before. -/
theorem readByte_writeByte_of_lt {m : List Host.Cell} (h : Memory.wf m = true) {a c : Nat} (ha : a < memSize)
    (hc : c < memSize) (b : Byte) : readByte (writeByte m a b) c = if c = a then b else readByte m c := by
  rw [readByte_writeByte h, wrapAddr_of_lt ha, wrapAddr_of_lt hc]

/-- The step of a host write at an address that exists (R44). -/
theorem step_memWrite {s : State} {a : Nat} {b : Byte} {rest : List Move} (move : s.moves = .memWrite a b :: rest)
    (ha : a < memSize) : step s = .next (hostMemWrite a b { s with moves := rest }) := by
  simp [step_cons move, perform, hostWrite, ha]

/-- The step of a host write at an address that does not exist (R70; log 15). -/
theorem step_memWrite_outside {s : State} {a : Nat} {b : Byte} {rest : List Move}
    (move : s.moves = .memWrite a b :: rest) (ha : memSize ≤ a) : step s = .fault .addressOutsideMemory := by
  simp [step_cons move, perform, hostWrite, Nat.not_lt.2 ha]

end Sys2Proof.Machine
end
section
/-! Obligations O10, O29, O33, O34, O42, O43 and O59: the frame of the engine, the register map, and single steps. -/

namespace Sys2Proof.Machine

/-- Settles O10: exec ignores every command outside IDLE, and the step is the CMD write. -/
theorem commandsIgnoredUnlessIdle : Obligations.CommandsIgnoredUnlessIdle := by
  unfold Obligations.CommandsIgnoredUnlessIdle
  refine ⟨fun i s h => exec_of_not_idle h i, fun s w rest h move => ?_⟩
  calc step s = portWrite (regOffset .cmd) 4 w { s with moves := rest } := step_cons move
    _ = writeCmd w { s with moves := rest } := portWrite_cmd w _
    _ = .next { s with moves := rest } := writeCmd_of_not_idle (s := { s with moves := rest }) h w

/-- Settles O29, from the frame of each effect an engine step can have. -/
theorem engineKeepsOperands : Obligations.EngineKeepsOperands := by
  unfold Obligations.EngineKeepsOperands
  intro m s
  obtain ⟨operands, cmdl, rdata, moves⟩ := (engineStep_effect m s).sameHostSide
  exact ⟨operands, cmdl, rdata, moves⟩

/-- Settles O33: the take's guard is the first clause's hypotheses, and the second clause contradicts it. -/
theorem laneTakesFreeRow : Obligations.LaneTakesFreeRow := by
  unfold Obligations.LaneTakesFreeRow
  intro s q y run seq
  refine ⟨fun row lane hdone hheld => ?_, fun h => ?_⟩
  · rw [engineStep_take run seq, if_pos ⟨row, lane, rowFree_iff.2 ⟨hdone, hheld⟩⟩]
  · rw [engineStep_take run seq, if_neg]
    rintro ⟨row, lane, free⟩
    obtain ⟨hdone, hheld⟩ := rowFree_iff.1 free
    rcases h with h | h | h | ⟨l, hl, hy⟩
    · omega
    · omega
    · exact hdone h
    · exact hheld l hl hy

/-- Settles O34, register by register. -/
theorem resetValues : Obligations.ResetValues := by
  unfold Obligations.ResetValues
  refine ⟨by decide, by decide, by decide, fun r hka hkb hid hcap hibufcap => ?_, rfl, rfl, rfl⟩
  cases r with
  | kaCoef n => exact absurd rfl (hka n)
  | kbCoef n => exact absurd rfl (hkb n)
  | id => exact absurd rfl hid
  | cap => exact absurd rfl hcap
  | ibufcap => exact absurd rfl hibufcap
  | _ => decide

/-- Settles O42: no register sits at those offsets. -/
theorem reservedOffsets : Obligations.ReservedOffsets := by
  unfold Obligations.ReservedOffsets
  intro s off v rest h4 h
  have hreg : regAt off = none := regAt_reserved h4 h
  have hd : definedAccess off 4 = true := definedAccess_word h4 (by omega)
  constructor
  · intro move
    rw [step_cons move, perform, portRead_of_defined hd, readOffset_of_reserved hreg]
    rfl
  · intro move
    rw [step_cons move, perform, portWrite_of_reserved hd hreg]

/-- Settles O43: the offsets of the map one by one, and both directions of the correspondence. -/
theorem registerMap : Obligations.RegisterMap := by
  unfold Obligations.RegisterMap
  refine ⟨⟨rfl, rfl, rfl, rfl, rfl, rfl, rfl⟩, ⟨rfl, rfl, rfl, rfl, rfl⟩, ⟨rfl, rfl, rfl, rfl, rfl⟩, ⟨rfl, rfl⟩, ?_,
    ?_, ?_⟩
  · exact fun n => ⟨regAt_kaCoef n, regAt_kbCoef n⟩
  · exact fun off r h => regOffset_of_regAt h
  · exact fun r => ⟨regAt_regOffset r, regOffset_aligned r⟩

/-- Settles O59, from the one equation of a host write and its notes. -/
theorem hostMemoryWrite : Obligations.HostMemoryWrite := by
  unfold Obligations.HostMemoryWrite
  intro s a b rest move
  refine ⟨step_memWrite_outside move, fun ha => ⟨_, step_memWrite move ha, ?_⟩⟩
  have hhazard : s.status.busy = false → (hostMemWrite a b { s with moves := rest }).hazard = s.hazard :=
    fun h => hostMemWrite_hazard_of_not_busy (s := { s with moves := rest }) h a b
  have hnotes : ∀ t, s.status.busy = true → cmdType s = some t →
      (a ∈ footprint s.src t s.src.z.toNat → (hostMemWrite a b { s with moves := rest }).hazard.spoiled = true) ∧
      (a ∈ footprint s.dst t s.dst.z.toNat → a ∈ (hostMemWrite a b { s with moves := rest }).hazard.touched) := by
    intro t run type
    rw [hostMemWrite_hazard_of_run (s := { s with moves := rest }) run type]
    refine ⟨fun h => ?_, fun h => ?_⟩
    · simp [h]
    · simp [h, mem_insertRising]
  rw [hostMemWrite_eq]
  exact ⟨⟨rfl, rfl, rfl, rfl, rfl, rfl, rfl, rfl, rfl⟩, rfl, rfl, rfl, rfl, rfl, rfl, rfl,
    fun hwf c hc => readByte_writeByte_of_lt hwf ha hc b, hhazard, hnotes⟩

end Sys2Proof.Machine
end

section
/-! SUPPORT. How each operation keeps the facts about STATUS and SEQ (`State.StatusOk`). Obligation O26. -/

namespace Sys2Proof.Machine

/-- The three facts of R31, spelled out. -/
theorem Status.wf_iff {st : Status} :
    st.wf = true ↔
      ¬ (st.busy = true ∧ st.err = true) ∧ ¬ (st.busy = true ∧ st.done = true) ∧
        (st.err = true ↔ st.cause ≠ 0#4) := by
  simp only [Status.wf]
  cases st.busy <;> cases st.done <;> cases st.err <;> simp

/-- BUSY and DONE may be written as long as they are not both 1, and BUSY not beside ERR (R31). -/
theorem Status.wf_set {st : Status} (h : st.wf = true) {busy done : Bool} (herr : ¬ (busy = true ∧ st.err = true))
    (hdone : ¬ (busy = true ∧ done = true)) : Status.wf { st with busy := busy, done := done } = true := by
  obtain ⟨_, _, hcause⟩ := Status.wf_iff.1 h
  exact Status.wf_iff.2 ⟨herr, hdone, hcause⟩

/-- Every cause has a code other than 0 (R220). -/
theorem causeCode_ne_zero (c : Cause) : causeCode c ≠ 0#4 := by
  cases c <;> decide

/-- StatusOk reads STATUS and SEQ only. -/
theorem State.StatusOk.congr {s u : State} (h : s.StatusOk) (status : u.status = s.status)
    (seq : u.seq.isSome = s.seq.isSome) : u.StatusOk := by
  obtain ⟨hwf, hseq⟩ := h
  exact ⟨status ▸ hwf, by rw [status, seq, hseq]⟩

/-- While BUSY is 0 there is no SEQ (R39). -/
theorem State.StatusOk.seq_eq_none {s : State} (h : s.StatusOk) (idle : s.status.busy = false) : s.seq = none := by
  simpa [idle] using h.2

theorem complete_statusOk {s : State} (h : s.status.wf = true) : (complete s).StatusOk := by
  rw [complete_eq]
  exact ⟨Status.wf_set h (by simp) (by simp), rfl⟩

/-- While BUSY is 1, what a pass's start or end comes to is consistent, whether SEQ was there or not. -/
theorem PassEffect.statusOk {s u : State} {p : Pass} (h : PassEffect s p u) (hwf : s.status.wf = true)
    (run : s.status.busy = true) : u.StatusOk := by
  cases h with
  | completed => exact complete_statusOk hwf
  | began p' _ _ => exact ⟨hwf, run⟩

theorem passOut_status (s : State) (t : ElemType) (p : Pass) (z y x : Nat) (pat : BitVec 32) :
    (passOut s t p z y x pat).status = s.status := by
  rcases passOut_cases s t p z y x pat with ⟨_, e⟩ | ⟨_, _, e⟩ | ⟨_, _, e⟩ <;> simp [e]

theorem EngineEffect.statusOk {s u : State} (h : EngineEffect s u) (hs : s.StatusOk) : u.StatusOk := by
  cases h with
  | idle => exact hs
  | took q y run seq row lane free => exact hs.congr rfl (by simp [seq])
  | tapped q t k l run seq type lane tap => exact hs.congr rfl (by simp [seq])
  | stored q t k l run seq type lane tap => exact hs.congr (passOut_status s t _ _ _ _ _) (by simp [seq])
  | nextBand q run seq done more => exact hs.congr rfl (by simp [seq])
  | endPass q run seq done last => exact (finishPass_effect q.pass s).statusOk hs.1 run

/-- A refusal leaves FAULT, with its cause (R230). -/
theorem raise_statusOk {s : State} (idle : s.Idle) (hs : s.StatusOk) (c : Cause) :
    (raise c (clearDone s)).StatusOk := by
  obtain ⟨busy, _⟩ := idle
  refine ⟨Status.wf_iff.2 ?_, by simp [busy, hs.seq_eq_none busy]⟩
  simp [busy, causeCode_ne_zero]

theorem CommandEffect.statusOk {s u : State} (h : CommandEffect s u) (hs : s.StatusOk) : u.StatusOk := by
  cases h with
  | ignored => exact hs
  | refused c idle => exact raise_statusOk idle hs c
  | accepted i p t idle type common separable =>
    obtain ⟨busy, err⟩ := idle
    have hwf : (latchCommand ((encode i).setWidth 14) (clearDone s)).status.wf = true :=
      Status.wf_set hs.1 (by simp [err]) (by simp)
    exact (startPass_effect p _).statusOk hwf rfl

/-- A write outside a run to a register other than CTRL and CMD leaves STATUS, or clears its DONE (R202, R208). -/
theorem writeUnlocked_status (v : Word) (s : State) (r : Reg) :
    (writeUnlocked v s r).status = s.status ∨ (writeUnlocked v s r).status = { s.status with done := false } := by
  cases r with
  | status =>
    simp only [writeUnlocked, writeStatus]
    split
    · exact .inr rfl
    · exact .inl rfl
  | _ => exact .inl rfl

/-- The fields that no register write outside a run reaches, but for the soft reset: the parameters, SEQ, IBUF, raster
memory and the notes on R88. -/
structure SameRun (s u : State) : Prop where
  params : u.params = s.params
  seq : u.seq = s.seq
  ibuf : u.ibuf = s.ibuf
  mem : u.mem = s.mem
  hazard : u.hazard = s.hazard

theorem writeUnlocked_sameRun (v : Word) (s : State) (r : Reg) : SameRun s (writeUnlocked v s r) := by
  cases r with
  | status =>
    simp only [writeUnlocked, writeStatus]
    split <;> exact ⟨rfl, rfl, rfl, rfl, rfl⟩
  | _ => exact ⟨rfl, rfl, rfl, rfl, rfl⟩

theorem writeUnlocked_busy {s : State} (idle : s.status.busy = false) (v : Word) (r : Reg) :
    (writeUnlocked v s r).status.busy = false := by
  rcases writeUnlocked_status v s r with e | e <;> rw [e] <;> exact idle

theorem writeUnlocked_statusOk {s : State} (idle : s.status.busy = false) (hs : s.StatusOk) (v : Word) (r : Reg) :
    (writeUnlocked v s r).StatusOk := by
  have hseq : (writeUnlocked v s r).seq = s.seq := (writeUnlocked_sameRun v s r).seq
  rcases writeUnlocked_status v s r with e | e
  · exact hs.congr e (by rw [hseq])
  · refine ⟨?_, by rw [e, hseq]; exact hs.2⟩
    rw [e]
    exact Status.wf_set hs.1 (by simp [idle]) (by simp)

theorem writeReg_statusOk {s : State} (hs : s.StatusOk) (r : Reg) (v : Word) : (writeReg r v s).StatusOk := by
  rcases writeReg_cases r v s with ⟨_, e⟩ | ⟨_, _, e⟩ | ⟨_, idle, e⟩ <;> rw [e]
  · rcases writeCtrl_cases v s with ⟨_, _, e⟩ | ⟨_, e⟩ <;> rw [e]
    · exact ⟨rfl, rfl⟩
    · exact hs
  · exact hs
  · exact writeUnlocked_statusOk idle hs v r

theorem hostMemWrite_statusOk {s : State} (hs : s.StatusOk) (a : Nat) (b : Byte) : (hostMemWrite a b s).StatusOk := by
  rw [hostMemWrite_eq]
  exact hs

theorem hardwareReset_statusOk (s : State) : (hardwareReset s).StatusOk := ⟨rfl, rfl⟩

/-- Every step keeps the facts about STATUS and SEQ. -/
theorem StepEffect.statusOk {s u : State} (h : StepEffect s u) (hs : s.StatusOk) : u.StatusOk := by
  cases h with
  | passed w rest => exact hs
  | engine m rest => exact (engineStep_effect m { s with moves := rest }).statusOk hs
  | register off size r v rest move place notCmd => exact writeReg_statusOk (s := { s with moves := rest }) hs r v
  | command rest _ effect => exact effect.statusOk hs
  | memory a b rest move inside => exact hostMemWrite_statusOk (s := { s with moves := rest }) hs a b
  | reset rest move => exact hardwareReset_statusOk { s with moves := rest }

/-- Settles O26, by the effects that a step can have. -/
theorem stepKeepsStatusConsistent : Obligations.StepKeepsStatusConsistent := by
  unfold Obligations.StepKeepsStatusConsistent
  exact fun s u hs h => (step_effect h).statusOk hs

end Sys2Proof.Machine
end

section
/-! SUPPORT. How each operation keeps the invariant of the machine (`State.Inv`). A state meets it in one of two ways:
outside a run, with nothing of a run left, or during one, with the command it was accepted as and a SEQ of R39.
Obligations O23 and O24. -/

namespace Sys2Proof.Machine

/-! ### What the running command and SEQ are judged by -/

/-- The fields that `CommandOk`, `SeqOk` and footprints read: the parameters, CMDL and the operand registers that give sizes
and addresses. -/
structure SameCommand (s u : State) : Prop where
  params : u.params = s.params
  cmdl : u.cmdl = s.cmdl
  src : u.src = s.src
  dst : u.dst = s.dst
  kaDim : u.kaDim = s.kaDim
  kbDim : u.kbDim = s.kbDim

section SameCommand

variable {s u : State} (same : SameCommand s u)
include same

theorem SameCommand.cmdType_eq : cmdType u = cmdType s := by
  simp [cmdType, same.cmdl]

theorem SameCommand.rasterW_eq : rasterW u = rasterW s := by
  simp [rasterW, same.src]

theorem SameCommand.rasterH_eq : rasterH u = rasterH s := by
  simp [rasterH, same.src]

theorem SameCommand.zproc_eq (p : Pass) : zproc u p = zproc s p := by
  cases p <;> simp [zproc, same.src, same.dst]

theorem SameCommand.bankDim_eq (bank : Bank) : bankDim u bank = bankDim s bank := by
  cases bank
  · exact same.kaDim
  · exact same.kbDim

theorem SameCommand.tapCount_eq (p : Pass) : tapCount u p = tapCount s p := by
  have hksel : cmdKsel u = cmdKsel s := by simp [cmdKsel, same.cmdl]
  cases p <;> simp [tapCount, viewW, viewH, hksel, same.bankDim_eq, same.kaDim, same.kbDim]

theorem CommandOk.congr {p : Pass} {t : ElemType} (h : CommandOk s p t) : CommandOk u p t where
  type := by rw [same.cmdType_eq]; exact h.type
  width := by rw [same.params]; exact h.width
  shapeW := by rw [same.src, same.dst]; exact h.shapeW
  shapeH := by rw [same.src, same.dst]; exact h.shapeH
  bands := by rw [same.src, same.dst]; exact h.bands
  columns := by rw [same.rasterW_eq]; exact h.columns
  rows := by rw [same.rasterH_eq]; exact h.rows
  oneD := by simpa only [not1dViolated, same.kaDim, same.kbDim] using h.oneD
  capacity := by simpa only [capacityViolated, same.params, same.src] using h.capacity

theorem SeqOk.congr {q : Seq} (h : SeqOk s q) : SeqOk u q where
  band := by rw [same.zproc_eq]; exact h.band
  doneRows := by rw [same.rasterH_eq]; exact h.doneRows
  doneRising := h.doneRising
  laneRows := by rw [same.rasterH_eq]; exact h.laneRows
  laneColumns := by rw [same.rasterW_eq, same.tapCount_eq]; exact h.laneColumns
  laneAcc := by rw [same.params]; exact h.laneAcc
  laneDistinct := h.laneDistinct
  laneCount := by rw [same.params]; exact h.laneCount

end SameCommand

/-- A command that passed the checks of one pass of CONVSEP passed those of the other. -/
theorem CommandOk.afterPass {s : State} {p p' : Pass} {t : ElemType} (h : CommandOk s p t)
    (separable : p' ≠ .single → p ≠ .single) : CommandOk s p' t :=
  { h with
    oneD := fun hp => h.oneD (separable hp)
    capacity := fun hp => h.capacity (separable hp) }

/-! ### SEQ, step by step (R39) -/

/-- A pass that is not empty has a row, a column and a band (R149). -/
theorem passEmpty_eq_false {s : State} {p : Pass} :
    passEmpty s p = false ↔ 0 < rasterW s ∧ 0 < rasterH s ∧ 0 < zproc s p := by
  simp [passEmpty, Nat.pos_iff_ne_zero, and_assoc]

/-- SEQ with no row done or held is one of R39, in any band of the pass. -/
theorem seqOk_emptyBand {s : State} {p : Pass} {z : Nat} (band : z < zproc s p) :
    SeqOk s { pass := p, z := z, rowsDone := [], lanes := [] } where
  band := band
  doneRows := by simp
  doneRising := .nil
  laneRows := by simp
  laneColumns := by simp
  laneAcc := by simp
  laneDistinct := by simp
  laneCount := Nat.zero_le _

/-- What holds of every entry of a list holds after one of them is replaced, if it holds of the new one. -/
theorem forall_mem_set {α : Type} {P : α → Prop} {l : List α} (h : ∀ b ∈ l, P b) {k : Nat} {a : α} (ha : P a) :
    ∀ b ∈ l.set k a, P b := by
  intro b hb
  rcases List.mem_or_eq_of_mem_set hb with hb | rfl
  · exact h b hb
  · exact ha

section Lanes

variable {s : State} {q : Seq} (h : SeqOk s q)
include h

/-- A free lane takes a free row (R39 item 2). -/
theorem SeqOk.take (columns : 0 < rasterW s) {y : Nat} (row : y < rasterH s) (lane : q.lanes.length < s.params.nlanes)
    (free : rowFree q y = true) :
    SeqOk s { q with lanes := q.lanes ++ [{ y := y, x := 0, tap := 0, acc := 0 }] } := by
  obtain ⟨hdone, hheld⟩ := rowFree_iff.1 free
  refine { h with laneRows := ?_, laneColumns := ?_, laneAcc := ?_, laneDistinct := ?_, laneCount := ?_ }
  · exact List.forall_mem_append.2 ⟨h.laneRows, List.forall_mem_singleton.2 ⟨row, hdone⟩⟩
  · exact List.forall_mem_append.2 ⟨h.laneColumns, List.forall_mem_singleton.2 ⟨columns, Nat.zero_le _⟩⟩
  · exact List.forall_mem_append.2 ⟨h.laneAcc, List.forall_mem_singleton.2 (accMin_le_zero_le_accMax _)⟩
  · simpa [List.nodup_append, h.laneDistinct] using hheld
  · simpa using lane

/-- A lane goes on within its row. -/
theorem SeqOk.setLane {k : Nat} {l l' : Lane} (lane : q.lanes[k]? = some l) (row : l'.y = l.y)
    (column : l'.x < rasterW s ∧ l'.tap ≤ tapCount s q.pass)
    (acc : accMin s.params.accW ≤ l'.acc ∧ l'.acc ≤ accMax s.params.accW) :
    SeqOk s { q with lanes := q.lanes.set k l' } := by
  have hl : l ∈ q.lanes := List.mem_of_getElem? lane
  have hrows : (q.lanes.set k l').map (fun l => l.y) = q.lanes.map (fun l => l.y) := by
    obtain ⟨hk, rfl⟩ := List.getElem?_eq_some_iff.1 lane
    apply List.ext_getElem <;> simp [List.getElem_set]
    rintro i hi rfl
    exact row
  refine { h with laneRows := ?_, laneColumns := ?_, laneAcc := ?_, laneDistinct := ?_, laneCount := ?_ }
  · exact forall_mem_set h.laneRows (row ▸ h.laneRows l hl)
  · exact forall_mem_set h.laneColumns column
  · exact forall_mem_set h.laneAcc acc
  · rw [hrows]
    exact h.laneDistinct
  · simpa using h.laneCount

/-- No other lane holds the row of lane number `k`. -/
theorem SeqOk.row_ne_of_mem_eraseIdx {k : Nat} {l m : Lane} (lane : q.lanes[k]? = some l)
    (hm : m ∈ q.lanes.eraseIdx k) : m.y ≠ l.y := by
  obtain ⟨i, hik, hi⟩ := List.mem_eraseIdx_iff_getElem?.1 hm
  have hlt : i < (q.lanes.map (fun l => l.y)).length := by
    rw [List.length_map]
    exact (List.getElem?_eq_some_iff.1 hi).1
  intro hy
  exact hik ((List.getElem?_inj hlt h.laneDistinct).1 (by simp [hi, lane, hy]))

/-- A lane ends its row: the row is done and the lane is free (R39 item 2). -/
theorem SeqOk.finishRow {k : Nat} {l : Lane} (lane : q.lanes[k]? = some l) :
    SeqOk s { q with rowsDone := insertRising l.y q.rowsDone, lanes := q.lanes.eraseIdx k } where
  band := h.band
  doneRows y hy := by
    rcases mem_insertRising.1 hy with rfl | hy
    · exact (h.laneRows l (List.mem_of_getElem? lane)).1
    · exact h.doneRows y hy
  doneRising := insertRising_rising h.doneRising
  laneRows m hm := by
    obtain ⟨hrow, hdone⟩ := h.laneRows m (List.mem_of_mem_eraseIdx hm)
    refine ⟨hrow, fun hy => ?_⟩
    rcases mem_insertRising.1 hy with hy | hy
    · exact h.row_ne_of_mem_eraseIdx lane hm hy
    · exact hdone hy
  laneColumns m hm := h.laneColumns m (List.mem_of_mem_eraseIdx hm)
  laneAcc m hm := h.laneAcc m (List.mem_of_mem_eraseIdx hm)
  laneDistinct := h.laneDistinct.sublist ((List.eraseIdx_sublist _ _).map _)
  laneCount := (List.length_eraseIdx_le _ _).trans h.laneCount

/-- A lane stores its sample: it goes to the next column, or ends its row (R37, R39 item 2). -/
theorem SeqOk.store {k : Nat} {l : Lane} (lane : q.lanes[k]? = some l) : SeqOk s (afterStore (rasterW s) q k l) := by
  unfold afterStore
  split
  · rename_i column
    exact h.setLane lane rfl ⟨column, Nat.zero_le _⟩ (accMin_le_zero_le_accMax _)
  · exact h.finishRow lane

/-- A tap leaves an ACC_W-bit value in ACC (R37, R139). -/
theorem SeqOk.laneTap_range (legal : s.params.Legal) {l : Lane} (hl : l ∈ q.lanes) (t : ElemType) :
    accMin s.params.accW ≤ laneTap s t q l ∧ laneTap s t q l ≤ accMax s.params.accW := by
  have haccW : 0 < s.params.accW := lt_of_lt_of_le (by decide) legal.1
  unfold laneTap tapStep
  split
  · exact wrapS_range haccW _
  · exact h.laneAcc l hl

/-- A lane handles one of the taps it has left (R138). -/
theorem SeqOk.tap (legal : s.params.Legal) {k : Nat} {l : Lane} (lane : q.lanes[k]? = some l)
    (tap : l.tap < tapCount s q.pass) (t : ElemType) :
    SeqOk s { q with lanes := q.lanes.set k { l with tap := l.tap + 1, acc := laneTap s t q l } } := by
  have hl : l ∈ q.lanes := List.mem_of_getElem? lane
  exact h.setLane lane rfl ⟨(h.laneColumns l hl).1, tap⟩ (h.laneTap_range legal hl t)

end Lanes

/-! ### The two ways to meet the invariant -/

/-- Outside a run, where SEQ is undefined, IBUF is released and nothing is noted, only the parameters, STATUS and raster
memory are left to judge. -/
theorem inv_of_not_busy {u : State} (idle : u.status.busy = false) (params : u.params.Legal) (status : u.StatusOk)
    (ibuf : u.ibuf = []) (hazard : u.hazard = Hazard.none) (memory : Memory.wf u.mem = true) : u.Inv where
  params := params
  status := status
  run q hq := by simp [status.seq_eq_none idle] at hq
  ibuf := by
    rw [State.IbufOk, ibuf]
    exact ⟨rfl, fun _ => rfl, by simp⟩
  hazard := ⟨fun _ => hazard, by simp [hazard, Hazard.none]⟩
  memory := memory

/-- What the invariant says of a run of pass `p` with element type `t`, apart from STATUS and SEQ. -/
structure Running (s : State) (p : Pass) (t : ElemType) : Prop where
  params : s.params.Legal
  command : CommandOk s p t
  ibufCells : cellsWf s.ibuf = true
  ibufRange : ∀ c ∈ s.ibuf, c.1 < rasterW s * rasterH s * s.src.z.toNat ∧ c.1 < s.params.ibufCap
  touched : ∀ a ∈ s.hazard.touched, a ∈ footprint s.dst t s.dst.z.toNat
  memory : Memory.wf s.mem = true

theorem State.Inv.running {s : State} (h : s.Inv) {q : Seq} (seq : s.seq = some q) :
    ∃ t, Running s q.pass t ∧ SeqOk s q := by
  obtain ⟨t, command, hq⟩ := h.run q seq
  obtain ⟨ibufCells, _, ibufRange⟩ := h.ibuf
  exact ⟨t, ⟨h.params, command, ibufCells, ibufRange, h.hazard.2 t command.type, h.memory⟩, hq⟩

theorem Running.inv {s : State} {q : Seq} {t : ElemType} (h : Running s q.pass t) (hq : SeqOk s q)
    (seq : s.seq = some q) (status : s.StatusOk) : s.Inv where
  params := h.params
  status := status
  run q' hq' := by
    cases seq.symm.trans hq'
    exact ⟨t, h.command, hq⟩
  ibuf := ⟨h.ibufCells, by simp [seq], h.ibufRange⟩
  hazard := by
    have hbusy : s.status.busy = true := by simp [status.2, seq]
    refine ⟨by simp [hbusy], fun t' ht' => ?_⟩
    cases h.command.type.symm.trans ht'
    exact h.touched
  memory := h.memory

/-- What a run keeps when the command, IBUF and the notes stay as they are. -/
theorem Running.congr {s u : State} {p : Pass} {t : ElemType} (h : Running s p t) (same : SameCommand s u)
    (ibuf : u.ibuf = s.ibuf) (hazard : u.hazard = s.hazard) (memory : Memory.wf u.mem = true) : Running u p t where
  params := by rw [same.params]; exact h.params
  command := h.command.congr same
  ibufCells := by rw [ibuf]; exact h.ibufCells
  ibufRange := by rw [ibuf, same.rasterW_eq, same.rasterH_eq, same.src, same.params]; exact h.ibufRange
  touched := by rw [hazard, same.dst]; exact h.touched
  memory := memory

/-- A run goes on with another SEQ of R39. -/
theorem Running.inv_withSeq {s : State} {q : Seq} {t : ElemType} (h : Running s q.pass t) (hq : SeqOk s q)
    (run : s.status.busy = true) (hwf : s.status.wf = true) : State.Inv { s with seq := some q } :=
  have same : SameCommand s { s with seq := some q } := ⟨rfl, rfl, rfl, rfl, rfl, rfl⟩
  (h.congr same rfl rfl h.memory).inv (hq.congr same) rfl ⟨hwf, run⟩

/-! ### Completion and the passes -/

theorem complete_inv {s : State} (params : s.params.Legal) (hwf : s.status.wf = true)
    (memory : Memory.wf s.mem = true) : (complete s).Inv := by
  have status : (complete s).StatusOk := complete_statusOk hwf
  rw [complete_eq] at status ⊢
  exact inv_of_not_busy rfl params status rfl rfl (settleHazard_wf memory)

/-- What the start or the end of a pass comes to meets the invariant, if every pass that may begin has its run. -/
theorem PassEffect.inv {s u : State} {p : Pass} {t : ElemType} (h : PassEffect s p u) (params : s.params.Legal)
    (hwf : s.status.wf = true) (memory : Memory.wf s.mem = true) (run : s.status.busy = true)
    (hrun : ∀ p', passEmpty s p' = false → (p' ≠ .single → p ≠ .single) → Running s p' t) : u.Inv := by
  cases h with
  | completed => exact complete_inv params hwf memory
  | began p' nonempty separable =>
    obtain ⟨_, _, band⟩ := passEmpty_eq_false.1 nonempty
    exact Running.inv_withSeq (q := freshSeq p') (hrun p' nonempty separable) (seqOk_emptyBand band) run hwf

/-- The end of a pass of a run meets the invariant. -/
theorem Running.inv_passEffect {s u : State} {p : Pass} {t : ElemType} (hrun : Running s p t) (h : PassEffect s p u)
    (hwf : s.status.wf = true) (run : s.status.busy = true) : u.Inv :=
  h.inv hrun.params hwf hrun.memory run fun _ _ separable =>
    { hrun with command := hrun.command.afterPass separable }

/-! ### The lanes -/

/-- The number of an entry of a box is below the box's size. -/
theorem mul_add_lt_mul {a m b n : Nat} (ha : a < m) (hb : b < n) : a * n + b < m * n :=
  calc a * n + b < a * n + n := Nat.add_lt_add_left hb _
    _ = (a + 1) * n := (Nat.succ_mul a n).symm
    _ ≤ m * n := Nat.mul_le_mul_right n ha

/-- The entry of a sample of the command lies inside IBUF's part for the raster (R36, R91). -/
theorem ibufIndex_lt {s : State} {z y x : Nat} (hz : z < s.src.z.toNat) (hy : y < rasterH s) (hx : x < rasterW s) :
    ibufIndex s z y x < rasterW s * rasterH s * s.src.z.toNat := by
  have h : ibufIndex s z y x < s.src.z.toNat * rasterH s * rasterW s := mul_add_lt_mul (mul_add_lt_mul hz hy) hx
  calc ibufIndex s z y x < s.src.z.toNat * rasterH s * rasterW s := h
    _ = rasterW s * rasterH s * s.src.z.toNat := by ring

/-- The CAPACITY check bounds the intermediate raster by the buffer (R232). -/
theorem CommandOk.fitsIbuf {s : State} {p : Pass} {t : ElemType} (h : CommandOk s p t) (hp : p ≠ .single) :
    rasterW s * rasterH s * s.src.z.toNat ≤ s.params.ibufCap := by
  simpa [capacityViolated, rasterW, rasterH] using h.capacity hp

theorem passOut_sameCommand (s : State) (t : ElemType) (p : Pass) (z y x : Nat) (pat : BitVec 32) :
    SameCommand s (passOut s t p z y x pat) := by
  obtain ⟨operands, cmdl, _, _⟩ := passOut_sameHostSide s t p z y x pat
  exact ⟨operands.params, cmdl, operands.src, operands.dst, operands.kaDim, operands.kbDim⟩

/-- A stored sample lands inside IBUF in pass 1, and in raster memory otherwise. -/
theorem Running.store {s : State} {q : Seq} {t : ElemType} (h : Running s q.pass t) (hq : SeqOk s q) {l : Lane}
    (hl : l ∈ q.lanes) (pat : BitVec 32) : Running (passOut s t q.pass q.z l.y l.x pat) q.pass t := by
  have same := passOut_sameCommand s t q.pass q.z l.y l.x pat
  rcases passOut_cases s t q.pass q.z l.y l.x pat with ⟨hp, e⟩ | ⟨_, _, e⟩ | ⟨_, _, e⟩ <;> rw [e] at same ⊢
  · have hz : q.z < s.src.z.toNat := by simpa [hp, zproc] using hq.band
    have hlt : ibufIndex s q.z l.y l.x < rasterW s * rasterH s * s.src.z.toNat :=
      ibufIndex_lt hz (hq.laneRows l hl).1 (hq.laneColumns l hl).1
    refine ⟨h.params, h.command.congr same, cellSet_wf h.ibufCells _ _, fun c hc => ?_, h.touched, h.memory⟩
    rcases mem_cellSet hc with rfl | hc
    · exact ⟨hlt, lt_of_lt_of_le hlt (h.command.fitsIbuf (by simp [hp]))⟩
    · exact h.ibufRange c hc
  · exact h.congr same rfl rfl (storeSample_wf h.memory ..)
  · exact h.congr same rfl rfl (scramble_wf h.memory _ _)

@[simp] theorem afterStore_pass (w : Nat) (q : Seq) (k : Nat) (l : Lane) : (afterStore w q k l).pass = q.pass := by
  unfold afterStore
  split <;> rfl

/-- The running command stores a sample and its lane goes on. -/
theorem Running.inv_store {s : State} {q : Seq} {t : ElemType} (h : Running s q.pass t) (hq : SeqOk s q) {k : Nat}
    {l : Lane} (lane : q.lanes[k]? = some l) (run : s.status.busy = true) (hwf : s.status.wf = true)
    (pat : BitVec 32) :
    State.Inv { passOut s t q.pass q.z l.y l.x pat with seq := some (afterStore (rasterW s) q k l) } := by
  have status := passOut_status s t q.pass q.z l.y l.x pat
  have hrun : Running (passOut s t q.pass q.z l.y l.x pat) (afterStore (rasterW s) q k l).pass t := by
    rw [afterStore_pass]
    exact h.store hq (List.mem_of_getElem? lane) pat
  exact Running.inv_withSeq hrun ((hq.store lane).congr (passOut_sameCommand s t _ _ _ _ _)) (by rw [status]; exact run)
    (by rw [status]; exact hwf)

/-- A step of the engine keeps the invariant. -/
theorem EngineEffect.inv {s u : State} (h : EngineEffect s u) (hs : s.Inv) : u.Inv := by
  have hwf := hs.status.1
  cases h with
  | idle => exact hs
  | took q y run seq row lane free =>
    obtain ⟨t, hrun, hq⟩ := hs.running seq
    exact Running.inv_withSeq hrun (hq.take hrun.command.columns row lane free) run hwf
  | tapped q t k l run seq type lane tap =>
    obtain ⟨t', hrun, hq⟩ := hs.running seq
    exact Running.inv_withSeq hrun (hq.tap hs.params lane tap t) run hwf
  | stored q t k l run seq type lane tap =>
    obtain ⟨t', hrun, hq⟩ := hs.running seq
    cases hrun.command.type.symm.trans type
    exact hrun.inv_store hq lane run hwf _
  | nextBand q run seq done more =>
    obtain ⟨t, hrun, hq⟩ := hs.running seq
    exact Running.inv_withSeq hrun (seqOk_emptyBand more) run hwf
  | endPass q run seq done last =>
    obtain ⟨t, hrun, hq⟩ := hs.running seq
    exact hrun.inv_passEffect (finishPass_effect q.pass s) hwf run

/-! ### The register port, host writes and the resets -/

/-- A state in which nothing that the invariant reads has changed, but for raster memory and the notes on R88. -/
theorem State.Inv.congr {s u : State} (h : s.Inv) (same : SameCommand s u) (status : u.status = s.status)
    (seq : u.seq = s.seq) (ibuf : u.ibuf = s.ibuf) (hazard : u.HazardOk) (memory : Memory.wf u.mem = true) :
    u.Inv where
  params := by rw [same.params]; exact h.params
  status := h.status.congr status (by rw [seq])
  run q hq := by
    obtain ⟨t, command, hq'⟩ := h.run q (seq ▸ hq)
    exact ⟨t, command.congr same, hq'.congr same⟩
  ibuf := by
    rw [State.IbufOk, ibuf, seq, same.rasterW_eq, same.rasterH_eq, same.src, same.params]
    exact h.ibuf
  hazard := hazard
  memory := memory

/-- Outside a run a state in which a run's fields have not changed meets the invariant, whatever the operand registers
hold. -/
theorem State.Inv.congr_of_not_busy {s u : State} (h : s.Inv) (idle : s.status.busy = false) (same : SameRun s u)
    (idle' : u.status.busy = false) (status : u.StatusOk) : u.Inv := by
  have hibuf : s.ibuf = [] := h.ibuf.2.1 (h.status.seq_eq_none idle)
  have hhazard : s.hazard = Hazard.none := h.hazard.1 idle
  exact inv_of_not_busy idle' (same.params ▸ h.params) status (same.ibuf.trans hibuf) (same.hazard.trans hhazard)
    (same.mem ▸ h.memory)

/-- What only the model's fields for the host tell apart from a good state is a good state. -/
theorem State.Inv.withHost {s : State} (h : s.Inv) (w : Word) (rest : List Move) :
    State.Inv { s with rdata := w, moves := rest } :=
  h.congr ⟨rfl, rfl, rfl, rfl, rfl, rfl⟩ rfl rfl rfl h.hazard h.memory

/-- The soft reset leaves nothing of a run (R252). -/
theorem softReset_inv {s : State} (h : s.Inv) : (softReset s).Inv :=
  inv_of_not_busy rfl h.params ⟨rfl, rfl⟩ rfl rfl h.memory

theorem stopRun_params (s : State) : (stopRun s).params = s.params := by
  rcases stopRun_cases s with ⟨_, t, _, e⟩ | ⟨_, e⟩ <;> simp [e]

/-- The hardware reset leaves nothing of a run, also when it stops one (R250, R251). -/
theorem hardwareReset_inv {s : State} (h : s.Inv) : (hardwareReset s).Inv := by
  have params : (hardwareReset s).params.Legal := by
    have e : (hardwareReset s).params = s.params := stopRun_params s
    exact e ▸ h.params
  exact inv_of_not_busy rfl params (hardwareReset_statusOk s) rfl rfl (stopRun_wf h.memory)

theorem writeCtrl_inv {s : State} (h : s.Inv) (v : Word) : (writeCtrl v s).Inv := by
  rcases writeCtrl_cases v s with ⟨_, _, e⟩ | ⟨_, e⟩ <;> rw [e]
  · exact softReset_inv h
  · exact h.congr ⟨rfl, rfl, rfl, rfl, rfl, rfl⟩ rfl rfl rfl h.hazard h.memory

theorem writeReg_inv {s : State} (h : s.Inv) (r : Reg) (v : Word) : (writeReg r v s).Inv := by
  rcases writeReg_cases r v s with ⟨_, e⟩ | ⟨_, _, e⟩ | ⟨_, idle, e⟩ <;> rw [e]
  · exact writeCtrl_inv h v
  · exact h
  · exact h.congr_of_not_busy idle (writeUnlocked_sameRun v s r) (writeUnlocked_busy idle v r)
      (writeUnlocked_statusOk idle h.status v r)

/-- The notes on a host's write during a run name bytes of FP(DST, T) only (log 11). -/
theorem hostMemWrite_hazardOk {s : State} (h : s.HazardOk) (a : Nat) (b : Byte) : (hostMemWrite a b s).HazardOk := by
  rcases hostMemWrite_cases a b s with ⟨_, e⟩ | ⟨run, t, type, e⟩ <;> rw [e]
  · exact h
  · refine ⟨by simp [run], fun t' type' c hc => ?_⟩
    cases type.symm.trans type'
    simp only at hc ⊢
    split at hc
    · rename_i ha
      rcases mem_insertRising.1 hc with rfl | hc
      · simpa using ha
      · exact h.2 t type c hc
    · exact h.2 t type c hc

theorem hostMemWrite_inv {s : State} (h : s.Inv) (a : Nat) (b : Byte) : (hostMemWrite a b s).Inv := by
  have hazard := hostMemWrite_hazardOk h.hazard a b
  rw [hostMemWrite_eq] at hazard ⊢
  exact h.congr ⟨rfl, rfl, rfl, rfl, rfl, rfl⟩ rfl rfl rfl hazard (writeByte_wf h.memory a b)

/-! ### The issue of a command -/

/-- While CMDL names an element type, the notes at issue are those of its footprints (log 11). -/
theorem latchCommand_hazard {s : State} {c : BitVec 14} {t : ElemType} (type : cmdType { s with cmdl := c } = some t) :
    (latchCommand c s).hazard = launchHazard s t := by
  simp only [latchCommand, cmdType] at type ⊢
  rw [type]
  rfl

/-- The checks at issue are the facts of an accepted command, over a raster that is not empty (R228). -/
theorem commandOk_of_checks {s : State} {p : Pass} {t : ElemType} (type : cmdType s = some t)
    (common : CommonPreconditions s t)
    (separable : p ≠ .single → not1dViolated s = false ∧ capacityViolated s = false)
    (nonempty : passEmpty s p = false) : CommandOk s p t := by
  obtain ⟨width, shapeW, shapeH, bands⟩ := common
  obtain ⟨columns, rows, _⟩ := passEmpty_eq_false.1 nonempty
  exact ⟨type, width, shapeW, shapeH, bands, columns, rows, fun hp => (separable hp).1, fun hp => (separable hp).2⟩

/-- Acceptance in a good state leaves a good state, also where the command completes at once (R149, R229). -/
theorem accept_inv {s : State} {c : BitVec 14} {p : Pass} {t : ElemType} (h : s.Inv) (idle : s.Idle)
    (type : cmdType { s with cmdl := c } = some t) (common : CommonPreconditions s t)
    (separable : p ≠ .single → not1dViolated s = false ∧ capacityViolated s = false) :
    (accept c p (clearDone s)).Inv := by
  obtain ⟨busy, err⟩ := idle
  have hibuf : s.ibuf = [] := h.ibuf.2.1 (h.status.seq_eq_none busy)
  have hwf : (latchCommand c (clearDone s)).status.wf = true := Status.wf_set h.status.1 (by simp [err]) (by simp)
  have hrun : ∀ p', passEmpty (latchCommand c (clearDone s)) p' = false → (p' ≠ .single → p ≠ .single) →
      Running (latchCommand c (clearDone s)) p' t := by
    intro p' nonempty hp
    have command : CommandOk (latchCommand c (clearDone s)) p' t :=
      commandOk_of_checks type common (fun hp' => separable (hp hp')) nonempty
    have hibuf' : (latchCommand c (clearDone s)).ibuf = [] := hibuf
    have hhazard : (latchCommand c (clearDone s)).hazard = launchHazard (clearDone s) t := latchCommand_hazard type
    exact ⟨h.params, command, by rw [hibuf']; rfl, by simp [hibuf'], by simp [hhazard, launchHazard], h.memory⟩
  exact (startPass_effect p _).inv h.params hwf h.memory rfl hrun

theorem CommandEffect.inv {s u : State} (h : CommandEffect s u) (hs : s.Inv) : u.Inv := by
  cases h with
  | ignored => exact hs
  | refused c idle =>
    exact hs.congr_of_not_busy idle.1 ⟨rfl, rfl, rfl, rfl, rfl⟩ idle.1 (raise_statusOk idle hs.status c)
  | accepted i p t idle type common separable => exact accept_inv hs idle type common separable

/-! ### Every step -/

/-- Every step keeps the invariant. -/
theorem StepEffect.inv {s u : State} (h : StepEffect s u) (hs : s.Inv) : u.Inv := by
  have hnext (rest : List Move) : State.Inv { s with moves := rest } := hs.withHost s.rdata rest
  cases h with
  | passed w rest => exact hs.withHost w rest
  | engine m rest => exact (engineStep_effect m _).inv (hnext rest)
  | register off size r v rest move place notCmd => exact writeReg_inv (hnext rest) r v
  | command rest _ effect => exact effect.inv (hnext rest)
  | memory a b rest move inside => exact hostMemWrite_inv (hnext rest) a b
  | reset rest move => exact hardwareReset_inv (hnext rest)

/-- Settles O23, by the effects that a step can have. -/
theorem stepKeepsInvariant : Obligations.StepKeepsInvariant := by
  unfold Obligations.StepKeepsInvariant
  exact fun s u hs h => (step_effect h).inv hs

/-- Settles O24: reset leaves nothing of a run. -/
theorem resetMeetsInvariant : Obligations.ResetMeetsInvariant := by
  unfold Obligations.ResetMeetsInvariant
  exact inv_of_not_busy rfl (by decide) ⟨rfl, rfl⟩ rfl rfl reset_memory_wf

end Sys2Proof.Machine
end

section
/-! SUPPORT. How each operation keeps raster memory canonical, and which bytes it can change. Obligations O25 and
O27. -/

namespace Sys2Proof.Machine

/-! ### The canonical form -/

theorem complete_wf {s : State} (h : Memory.wf s.mem = true) : Memory.wf (complete s).mem = true := by
  rw [complete_eq]
  exact settleHazard_wf h

theorem PassEffect.wf {s u : State} {p : Pass} (h : PassEffect s p u) (hs : Memory.wf s.mem = true) :
    Memory.wf u.mem = true := by
  cases h with
  | completed => exact complete_wf hs
  | began p' _ _ => exact hs

theorem passOut_wf {s : State} (h : Memory.wf s.mem = true) (t : ElemType) (p : Pass) (z y x : Nat)
    (pat : BitVec 32) : Memory.wf (passOut s t p z y x pat).mem = true := by
  rcases passOut_cases s t p z y x pat with ⟨_, e⟩ | ⟨_, _, e⟩ | ⟨_, _, e⟩ <;> rw [e]
  · exact h
  · exact storeSample_wf h ..
  · exact scramble_wf h _ _

theorem EngineEffect.wf {s u : State} (h : EngineEffect s u) (hs : Memory.wf s.mem = true) :
    Memory.wf u.mem = true := by
  cases h with
  | stored q t k l run seq type lane tap => exact passOut_wf hs t _ _ _ _ _
  | endPass q run seq done last => exact (finishPass_effect q.pass s).wf hs
  | _ => exact hs

theorem CommandEffect.wf {s u : State} (h : CommandEffect s u) (hs : Memory.wf s.mem = true) :
    Memory.wf u.mem = true := by
  cases h with
  | accepted i p t idle type common separable => exact (startPass_effect p _).wf hs
  | _ => exact hs

/-- No register write other than a CMD write reaches raster memory, a soft reset included (R44, R252). -/
theorem writeReg_mem (r : Reg) (v : Word) (s : State) : (writeReg r v s).mem = s.mem := by
  rcases writeReg_cases r v s with ⟨_, e⟩ | ⟨_, _, e⟩ | ⟨_, _, e⟩ <;> rw [e]
  · rcases writeCtrl_cases v s with ⟨_, _, e⟩ | ⟨_, e⟩ <;> simp [e]
  · exact (writeUnlocked_sameRun v s r).mem

theorem hostMemWrite_mem (a : Nat) (b : Byte) (s : State) : (hostMemWrite a b s).mem = writeByte s.mem a b := by
  rw [hostMemWrite_eq]

theorem hardwareReset_mem (s : State) : (hardwareReset s).mem = (stopRun s).mem := rfl

theorem StepEffect.wf {s u : State} (h : StepEffect s u) (hs : Memory.wf s.mem = true) :
    Memory.wf u.mem = true := by
  cases h with
  | passed w rest => exact hs
  | engine m rest => exact (engineStep_effect m { s with moves := rest }).wf hs
  | register off size r v rest move place notCmd =>
    rw [writeReg_mem]
    exact hs
  | command rest _ effect => exact effect.wf hs
  | memory a b rest move inside =>
    rw [hostMemWrite_mem]
    exact writeByte_wf hs a b
  | reset rest move => exact stopRun_wf (s := { s with moves := rest }) hs

/-- Settles O25, by the effects that a step can have. -/
theorem stepKeepsMemoryCanonical : Obligations.StepKeepsMemoryCanonical := by
  unfold Obligations.StepKeepsMemoryCanonical
  exact fun s u hs h => (step_effect h).wf hs

/-! ### The bytes outside FP(DST, T) -/

theorem unchangedOutside_of_mem_eq {s u : State} {t : ElemType} (h : u.mem = s.mem) : UnchangedOutside s u t :=
  fun a _ _ => by rw [h]

/-- Free values laid down inside FP(DST, T) leave the other bytes as they are. -/
theorem unpredict_unchangedOutside {s : State} {t : ElemType} {l : List Nat} (hwf : Memory.wf s.mem = true)
    (hl : ∀ a ∈ l, a ∈ footprint s.dst t s.dst.z.toNat) : UnchangedOutside s (unpredict l s) t := by
  intro a ha hfp
  refine readByte_scramble_of_not_mem hwf _ _ a fun b hb e => hfp ?_
  rw [wrapAddr_of_lt ha, wrapAddr_of_lt (lt_memSize_of_mem_footprint (hl b hb))] at e
  exact e ▸ hl b hb

/-- The bytes of a destination sample are bytes of FP(DST, T) (R74). -/
theorem sampleBytes_subset_footprint {d : Descriptor} {t : ElemType} {zn z y x : Nat} (hz : z < zn)
    (hy : y < d.h.toNat) (hx : x < d.w.toNat) : ∀ a ∈ sampleBytes d t z y x, a ∈ footprint d t zn :=
  fun _ ha => mem_footprint.2 ⟨z, hz, y, hy, x, hx, ha⟩

/-- A store changes the bytes of its sample only (R78). -/
theorem readByte_storeSample_of_not_mem {m : List Host.Cell} (h : Memory.wf m = true) {d : Descriptor} {t : ElemType}
    {z y x a : Nat} (p : BitVec 32) (ha : wrapAddr a ∉ sampleBytes d t z y x) :
    readByte (storeSample m d t z y x p) a = readByte m a :=
  readByte_memWriteNat_of_not_mem h _ _ _ a ha

theorem settleHazard_unchangedOutside {s : State} {t : ElemType} (hwf : Memory.wf s.mem = true)
    (type : cmdType s = some t) (touched : ∀ a ∈ s.hazard.touched, a ∈ footprint s.dst t s.dst.z.toNat) :
    UnchangedOutside s (settleHazard s) t := by
  rcases settleHazard_cases s with e | ⟨t', type', ⟨_, e⟩ | ⟨_, e⟩⟩ <;> rw [e]
  · exact unchangedOutside_of_mem_eq rfl
  · cases type.symm.trans type'
    exact unpredict_unchangedOutside hwf fun a ha => ha
  · exact unpredict_unchangedOutside hwf touched

theorem Running.unchangedOutside_of_passEffect {s u : State} {p p' : Pass} {t : ElemType} (h : Running s p t)
    (effect : PassEffect s p' u) : UnchangedOutside s u t := by
  cases effect with
  | completed =>
    rw [complete_eq]
    exact settleHazard_unchangedOutside h.memory h.command.type h.touched
  | began p'' _ _ => exact unchangedOutside_of_mem_eq rfl

/-- Outside pass 1 of CONVSEP a pass has the bands of DST (R141). -/
theorem zproc_of_ne {p : Pass} (h : p ≠ .sep1) (s : State) : zproc s p = s.dst.z.toNat := by
  cases p with
  | sep1 => exact absurd rfl h
  | _ => rfl

/-- A sample that a lane stores is one of DST, outside pass 1 of CONVSEP. -/
theorem Running.sample_mem_footprint {s : State} {q : Seq} {t : ElemType} (h : Running s q.pass t) (hq : SeqOk s q)
    {l : Lane} (hl : l ∈ q.lanes) (hp : q.pass ≠ .sep1) :
    ∀ a ∈ sampleBytes s.dst t q.z l.y l.x, a ∈ footprint s.dst t s.dst.z.toNat := by
  have hz : q.z < s.dst.z.toNat := zproc_of_ne hp s ▸ hq.band
  have hy : l.y < s.dst.h.toNat := h.command.shapeH ▸ (hq.laneRows l hl).1
  have hx : l.x < s.dst.w.toNat := h.command.shapeW ▸ (hq.laneColumns l hl).1
  exact sampleBytes_subset_footprint hz hy hx

theorem Running.unchangedOutside_of_store {s : State} {q : Seq} {t : ElemType} (h : Running s q.pass t)
    (hq : SeqOk s q) {l : Lane} (hl : l ∈ q.lanes) (pat : BitVec 32) :
    UnchangedOutside s (passOut s t q.pass q.z l.y l.x pat) t := by
  rcases passOut_cases s t q.pass q.z l.y l.x pat with ⟨_, e⟩ | ⟨hp, _, e⟩ | ⟨hp, _, e⟩ <;> rw [e]
  · exact unchangedOutside_of_mem_eq rfl
  · intro a ha hfp
    refine readByte_storeSample_of_not_mem h.memory _ fun hmem => hfp ?_
    rw [wrapAddr_of_lt ha] at hmem
    exact h.sample_mem_footprint hq hl hp a hmem
  · exact unpredict_unchangedOutside h.memory (h.sample_mem_footprint hq hl hp)

/-- A step of the engine changes bytes of FP(DST, T) only (R82). -/
theorem EngineEffect.unchangedOutside {s u : State} {t : ElemType} (h : EngineEffect s u) (hs : s.Inv)
    (type : cmdType s = some t) : UnchangedOutside s u t := by
  cases h with
  | stored q t' k l run seq type' lane tap =>
    cases type.symm.trans type'
    obtain ⟨t'', hrun, hq⟩ := hs.running seq
    cases type.symm.trans hrun.command.type
    exact hrun.unchangedOutside_of_store hq (List.mem_of_getElem? lane) _
  | endPass q run seq done last =>
    obtain ⟨t', hrun, _⟩ := hs.running seq
    cases type.symm.trans hrun.command.type
    exact hrun.unchangedOutside_of_passEffect (finishPass_effect q.pass s)
  | _ => exact unchangedOutside_of_mem_eq rfl

theorem engineStep_of_not_busy {s : State} (h : s.status.busy = false) (m : EngineMove) : engineStep m s = s := by
  simp [engineStep, h]

/-! ### Acceptance -/

/-- With a pass that is empty there is no destination sample: pass 1 of CONVSEP has at least the bands of DST (R149,
R224). -/
theorem no_sample_of_passEmpty {s : State} {t : ElemType} {p : Pass} (common : CommonPreconditions s t)
    (h : passEmpty s p = true) {z y x : Nat} (hz : z < s.dst.z.toNat) (hy : y < s.dst.h.toNat)
    (hx : x < s.dst.w.toNat) : False := by
  obtain ⟨_, shapeW, shapeH, bands⟩ := common
  have hpass : zproc s p ≠ 0 := by
    cases p <;> simp only [zproc] <;> omega
  have hw : rasterW s = s.dst.w.toNat := congrArg BitVec.toNat shapeW
  have hh : rasterH s = s.dst.h.toNat := congrArg BitVec.toNat shapeH
  simp only [passEmpty, Bool.or_eq_true, decide_eq_true_eq] at h
  omega

/-- An empty destination leaves nothing to be UNPREDICTABLE (R88, R149). -/
theorem launchHazard_of_passEmpty {s : State} {t : ElemType} {p : Pass} (common : CommonPreconditions s t)
    (h : passEmpty s p = true) : launchHazard s t = Hazard.none := by
  have hfp : footprint s.dst t s.dst.z.toNat = [] := by
    refine List.eq_nil_iff_forall_not_mem.2 fun a ha => ?_
    obtain ⟨z, hz, y, hy, x, hx, _⟩ := mem_footprint.1 ha
    exact no_sample_of_passEmpty common h hz hy hx
  exact launchHazard_of_ok ⟨by simp [hfp], by simp [hfp]⟩

/-- Acceptance starts the first pass in its band 0, or, over an empty raster, completes at once and changes no byte
(R149, R229). -/
theorem accept_cases {s : State} {c : BitVec 14} {p : Pass} {t : ElemType}
    (type : cmdType { s with cmdl := c } = some t) (common : CommonPreconditions s t) :
    (passEmpty s p = false ∧
        accept c p (clearDone s) = { latchCommand c (clearDone s) with seq := some (freshSeq p) }) ∨
      (passEmpty s p = true ∧
        accept c p (clearDone s) =
          { s with
            status := { s.status with busy := false, done := true }
            cmdl := c
            seq := none
            ibuf := []
            hazard := Hazard.none }) := by
  have hazard : (latchCommand c (clearDone s)).hazard = launchHazard s t := latchCommand_hazard type
  rcases startPass_cases p (latchCommand c (clearDone s)) with ⟨nonempty, e⟩ | ⟨empty, e⟩ | ⟨rfl, empty, nonempty, e⟩
  · exact .inl ⟨nonempty, e⟩
  · refine .inr ⟨empty, e.trans ?_⟩
    have hnone : (latchCommand c (clearDone s)).hazard = Hazard.none :=
      hazard.trans (launchHazard_of_passEmpty common empty)
    rw [complete_of_none hnone, hnone]
    rfl
  · obtain ⟨_, shapeW, shapeH, bands⟩ := common
    obtain ⟨columns, rows, band⟩ := passEmpty_eq_false.1 nonempty
    have band' : 0 < zproc (latchCommand c (clearDone s)) .sep1 := Nat.lt_of_lt_of_le band bands
    cases empty.symm.trans (passEmpty_eq_false.2 ⟨columns, rows, band'⟩)

/-- A CMD write changes no byte of raster memory, also where the command completes at once (R149). -/
theorem CommandEffect.mem_eq {s u : State} (h : CommandEffect s u) : u.mem = s.mem := by
  cases h with
  | accepted i p t idle type common separable =>
    rcases accept_cases (p := p) type common with ⟨_, e⟩ | ⟨_, e⟩ <;> simp [e, latchCommand]
  | _ => rfl

/-! ### Every step -/

/-- Outside a run only a host write changes raster memory (R44, R250). -/
theorem StepEffect.mem_eq_of_not_busy {s u : State} (h : StepEffect s u) (idle : s.status.busy = false)
    (noWrite : ∀ a b rest, s.moves ≠ .memWrite a b :: rest) : u.mem = s.mem := by
  cases h with
  | passed w rest => rfl
  | engine m rest => rw [engineStep_of_not_busy (s := { s with moves := rest }) idle]
  | register off size r v rest move place notCmd => exact writeReg_mem r v _
  | command rest _ effect => exact effect.mem_eq
  | memory a b rest move inside => exact absurd move (noWrite a b rest)
  | reset rest move =>
    rcases stopRun_cases { s with moves := rest } with ⟨run, _⟩ | ⟨_, e⟩
    · exact absurd (idle.symm.trans run) (by decide)
    · rw [hardwareReset_mem, e]

/-- A hardware reset changes bytes of FP(DST, T) only (R251). -/
theorem hardwareReset_unchangedOutside {s : State} {t : ElemType} (hwf : Memory.wf s.mem = true)
    (type : cmdType s = some t) : UnchangedOutside s (hardwareReset s) t := by
  intro a ha hfp
  rw [hardwareReset_mem]
  rcases stopRun_cases s with ⟨_, t', type', e⟩ | ⟨_, e⟩ <;> rw [e]
  cases type.symm.trans type'
  exact unpredict_unchangedOutside hwf (fun _ h => h) a ha hfp

/-- No step changes a byte outside FP(DST, T), but for a host write of that byte (R82). -/
theorem StepEffect.readByte_eq {s u : State} {t : ElemType} {a : Nat} (h : StepEffect s u) (hs : s.Inv)
    (type : cmdType s = some t) (ha : a < memSize) (hfp : a ∉ footprint s.dst t s.dst.z.toNat)
    (noWrite : ∀ b rest, s.moves ≠ .memWrite a b :: rest) : readByte u.mem a = readByte s.mem a := by
  cases h with
  | passed w rest => rfl
  | engine m rest => exact (engineStep_effect m _).unchangedOutside (hs.withHost s.rdata rest) type a ha hfp
  | register off size r v rest move place notCmd => rw [writeReg_mem]
  | command rest _ effect => rw [effect.mem_eq]
  | memory b v rest move inside =>
    have hab : a ≠ b := by
      rintro rfl
      exact noWrite v rest move
    rw [hostMemWrite_mem, readByte_writeByte_of_lt hs.memory inside ha, if_neg hab]
  | reset rest move =>
    exact hardwareReset_unchangedOutside (s := { s with moves := rest }) hs.memory type a ha hfp

/-- Settles O27, by the effects that a step can have. -/
theorem stepWritesOnlyDestination : Obligations.StepWritesOnlyDestination := by
  unfold Obligations.StepWritesOnlyDestination
  intro s u hs h
  exact ⟨fun idle noWrite => (step_effect h).mem_eq_of_not_busy idle noWrite,
    fun t a type ha hfp noWrite => (step_effect h).readByte_eq hs type ha hfp noWrite⟩

end Sys2Proof.Machine
end

section
/-! The barriers between bands and passes. Obligation O30. -/

namespace Sys2Proof.Machine

/-- A band is done exactly if every row of it is (R39 item 3). -/
theorem bandDone_iff {s : State} {q : Seq} : bandDone s q = true ↔ ∀ y < rasterH s, y ∈ q.rowsDone := by
  simp [bandDone]

@[simp] theorem afterStore_z (w : Nat) (q : Seq) (k : Nat) (l : Lane) : (afterStore w q k l).z = q.z := by
  unfold afterStore
  split <;> rfl

/-- What the end of a pass comes to, if not completion, is pass 2 after pass 1 (R163). -/
theorem seq_of_finishPass {p : Pass} {s : State} {q : Seq} (h : (finishPass p s).seq = some q) :
    p = .sep1 ∧ q = freshSeq .sep2 := by
  rcases finishPass_cases p s with ⟨_, e⟩ | ⟨rfl, e⟩ <;> rw [e] at h
  · cases h
  · rcases startPass_cases .sep2 s with ⟨_, e⟩ | ⟨_, e⟩ | ⟨hp, _⟩
    · rw [e] at h
      cases h
      exact ⟨rfl, rfl⟩
    · rw [e] at h
      cases h
    · cases hp

/-- Of the effects that an engine step can have, only those of the sequencer leave the band, and it moves on when every
row is done (R83 item 4, R163). -/
theorem EngineEffect.barrier {s u : State} {q q' : Seq} (h : EngineEffect s u) (seq : s.seq = some q)
    (seq' : u.seq = some q') :
    (q'.pass = q.pass ∧ q'.z = q.z) ∨
      ((∀ y < rasterH s, y ∈ q.rowsDone) ∧
        ((q'.pass = q.pass ∧ q'.z = q.z + 1 ∧ q.z + 1 < zproc s q.pass) ∨
          (q.pass = .sep1 ∧ q'.pass = .sep2 ∧ q'.z = 0 ∧ zproc s .sep1 ≤ q.z + 1))) := by
  cases h with
  | idle =>
    cases seq.symm.trans seq'
    exact .inl ⟨rfl, rfl⟩
  | took q₁ y run seq₁ row lane free =>
    cases seq.symm.trans seq₁
    cases seq'
    exact .inl ⟨rfl, rfl⟩
  | tapped q₁ t k l run seq₁ type lane tap =>
    cases seq.symm.trans seq₁
    cases seq'
    exact .inl ⟨rfl, rfl⟩
  | stored q₁ t k l run seq₁ type lane tap =>
    cases seq.symm.trans seq₁
    cases seq'
    exact .inl ⟨afterStore_pass .., afterStore_z ..⟩
  | nextBand q₁ run seq₁ done more =>
    cases seq.symm.trans seq₁
    cases seq'
    exact .inr ⟨bandDone_iff.1 done, .inl ⟨rfl, rfl, more⟩⟩
  | endPass q₁ run seq₁ done last =>
    cases seq.symm.trans seq₁
    obtain ⟨hp, rfl⟩ := seq_of_finishPass seq'
    exact .inr ⟨bandDone_iff.1 done, .inr ⟨hp, rfl, rfl, hp ▸ last⟩⟩

/-- Settles O30, effect by effect. -/
theorem bandAndPassBarriers : Obligations.BandAndPassBarriers := by
  unfold Obligations.BandAndPassBarriers
  exact fun m s q q' seq seq' => (engineStep_effect m s).barrier seq seq'

end Sys2Proof.Machine
end

section
/-! SUPPORT. The bytes of an access and of a sample: what is stored is what loads back. Obligations O56 and O57. -/

namespace Sys2Proof.Machine

/-! ### Accesses, byte by byte -/

/-- Within an access of at most 2^32 bytes no address comes twice (R89). -/
theorem wrapAddr_notMem_accessBytes_succ {a n : Nat} (hn : n < memSize) : wrapAddr a ∉ accessBytes (a + 1) n := by
  rw [mem_accessBytes]
  rintro ⟨b, hb, e⟩
  simp only [wrapAddr, memSize] at e hn
  omega

/-- Byte `j` of an access is the pattern's bits 8j to 8j + 7 after MemWrite (R76). -/
theorem readByte_memWriteNat {m : List Host.Cell} (h : Memory.wf m = true) (a : Nat) {n : Nat} (p : Nat)
    (hn : n ≤ memSize) {j : Nat} (hj : j < n) :
    readByte (memWriteNat m a n p) (a + j) = BitVec.ofNat 8 (p / 256 ^ j) := by
  induction n generalizing m a p j with
  | zero => omega
  | succ n ih =>
    have hwf : Memory.wf (writeByte m a (BitVec.ofNat 8 p)) = true := writeByte_wf h _ _
    rw [memWriteNat]
    cases j with
    | zero =>
      rw [Nat.add_zero a, readByte_memWriteNat_of_not_mem hwf _ _ _ _ (wrapAddr_notMem_accessBytes_succ hn),
        readByte_writeByte h, if_pos rfl]
      simp
    | succ j =>
      have e : a + (j + 1) = a + 1 + j := by omega
      rw [e, ih hwf _ _ (by omega) (by omega), Nat.div_div_eq_div_mul, Nat.pow_succ']

/-- MemRead gives the low 8n bits of the number whose bytes the access holds (R76). -/
theorem memReadNat_of_bytes {m : List Host.Cell} (a n p : Nat)
    (h : ∀ j < n, readByte m (a + j) = BitVec.ofNat 8 (p / 256 ^ j)) : memReadNat m a n = p % 256 ^ n := by
  induction n generalizing a p with
  | zero => simp [memReadNat, Nat.mod_one]
  | succ n ih =>
    have hfirst : readByte m a = BitVec.ofNat 8 p := by simpa using h 0 (Nat.succ_pos n)
    have hrest : memReadNat m (a + 1) n = p / 256 % 256 ^ n := by
      refine ih (a + 1) (p / 256) fun j hj => ?_
      have hstep := h (j + 1) (by omega)
      rw [Nat.pow_succ', ← Nat.div_div_eq_div_mul] at hstep
      rwa [Nat.add_assoc, Nat.add_comm 1 j]
    calc memReadNat m a (n + 1) = p % 256 + 256 * (p / 256 % 256 ^ n) := by
            rw [memReadNat, hfirst, hrest, BitVec.toNat_ofNat]
      _ = p % (256 * 256 ^ n) := Nat.mod_mul.symm
      _ = p % 256 ^ (n + 1) := by rw [Nat.pow_succ']

/-- MemRead reads the bytes of its access and nothing else (R76). -/
theorem memReadNat_congr {m m' : List Host.Cell} (a n : Nat) (h : ∀ j < n, readByte m (a + j) = readByte m' (a + j)) :
    memReadNat m a n = memReadNat m' a n := by
  induction n generalizing a with
  | zero => rfl
  | succ n ih =>
    have hfirst : readByte m a = readByte m' a := by simpa using h 0 (Nat.succ_pos n)
    rw [memReadNat, memReadNat, hfirst, ih (a + 1) fun j hj => ?_]
    have := h (j + 1) (by omega)
    rwa [Nat.add_assoc, Nat.add_comm 1 j]

/-- A byte of a pattern, by its bits and by its value (R76). -/
theorem extractLsb'_byte (p : BitVec 32) (j : Nat) : p.extractLsb' (8 * j) 8 = BitVec.ofNat 8 (p.toNat / 256 ^ j) := by
  apply BitVec.eq_of_toNat_eq
  rw [BitVec.extractLsb'_toNat, BitVec.toNat_ofNat, Nat.shiftRight_eq_div_pow, Nat.pow_mul]

/-- A memory that holds a pattern's bytes reads as the pattern's low bits (R76). -/
theorem memRead_toNat_of_bytes {m : List Host.Cell} {a n : Nat} {p : BitVec 32}
    (h : ∀ j < n, readByte m (a + j) = p.extractLsb' (8 * j) 8) :
    (memRead m a n).toNat = p.toNat % 2 ^ (8 * n) := by
  have hread : memReadNat m a n = p.toNat % 256 ^ n :=
    memReadNat_of_bytes a n p.toNat fun j hj => by rw [h j hj, extractLsb'_byte]
  have hlt : p.toNat % 256 ^ n < 2 ^ 32 := lt_of_le_of_lt (Nat.mod_le _ _) p.isLt
  rw [memRead, BitVec.toNat_ofNat, hread, Nat.mod_eq_of_lt hlt, Nat.pow_mul]

/-- The bytes of an access after MemWrite are the pattern's (R76). -/
theorem readByte_memWrite {m : List Host.Cell} (h : Memory.wf m = true) (a : Nat) {n : Nat} (hn : n ≤ 4)
    (p : BitVec 32) {j : Nat} (hj : j < n) : readByte (memWrite m a n p) (a + j) = p.extractLsb' (8 * j) 8 := by
  rw [extractLsb'_byte]
  exact readByte_memWriteNat h a p.toNat (hn.trans (by decide)) hj

/-- Settles O56: the bytes written are the pattern's, and they are read back together. -/
theorem memReadAfterMemWrite : Obligations.MemReadAfterMemWrite := by
  unfold Obligations.MemReadAfterMemWrite
  intro m a n p hwf hn
  exact ⟨memRead_toNat_of_bytes fun j hj => readByte_memWrite hwf a hn p hj,
    fun c hc => readByte_memWriteNat_of_not_mem hwf a n p.toNat c hc⟩

/-! ### Samples -/

/-- A sample has 1, 2 or 4 bytes, 8 bits each (R75). -/
theorem elemBits_eq (t : ElemType) : elemBits t = 8 * elemBytes t := by
  cases t <;> rfl

theorem elemBytes_le (t : ElemType) : elemBytes t ≤ 4 := by
  cases t <;> decide

theorem elemBits_pos (t : ElemType) : 0 < elemBits t := by
  cases t <;> decide

/-- Only the low N(T) bits of a pattern make its value (R11). -/
theorem valT_congr {t : ElemType} {p p' : BitVec 32}
    (h : p.toNat % 2 ^ elemBits t = p'.toNat % 2 ^ elemBits t) : valT t p = valT t p' := by
  have hcast : (p.toNat : Int) % (2 ^ elemBits t : Nat) = (p'.toNat : Int) % (2 ^ elemBits t : Nat) := by
    exact_mod_cast h
  unfold valT
  split
  · rw [wrapS, wrapS, ← Int.emod_bmod, hcast, Int.emod_bmod]
  · rw [h]

/-- The value of a pattern is one of its type (R11, R77). -/
theorem valT_range (t : ElemType) (p : BitVec 32) : tMin t ≤ valT t p ∧ valT t p ≤ tMax t := by
  unfold valT tMin tMax
  split
  · exact wrapS_range (elemBits_pos t) _
  · have hlt : p.toNat % 2 ^ elemBits t < 2 ^ elemBits t := Nat.mod_lt _ (Nat.two_pow_pos _)
    omega

/-- Settles O57: a load is the value of the bytes that the store wrote. -/
theorem sampleLoadAndStore : Obligations.SampleLoadAndStore := by
  unfold Obligations.SampleLoadAndStore
  intro m d t z y x p hwf
  refine ⟨valT_range t _, valT_congr ?_, fun c hc hmem => ?_⟩
  · have hread := memRead_toNat_of_bytes fun j hj =>
      readByte_memWrite hwf (sampleAddr d t z y x) (elemBytes_le t) p hj
    rw [storeSample, hread, ← elemBits_eq, Nat.mod_mod]
  · exact readByte_storeSample_of_not_mem hwf p (by rwa [wrapAddr_of_lt hc])

end Sys2Proof.Machine
end

section
/-! SUPPORT. Runs, the acceptance of a command, and the progress of the default schedule. Obligation O21. -/

namespace Sys2Proof.Machine

/-! ### Runs -/

theorem reaches_zero {s u : State} : Reaches s 0 u ↔ s = u :=
  ⟨fun h => Host.Outcome.next.inj h, fun h => congrArg Host.Outcome.next h⟩

/-- A longer run is one step and the rest of the run. -/
theorem reaches_succ {s u : State} {n : Nat} : Reaches s (n + 1) u ↔ ∃ v, step s = .next v ∧ Reaches v n u := by
  have hcore : core.step s = step s := rfl
  simp only [Reaches, Host.Core.run, hcore]
  cases step s with
  | next v => exact ⟨fun h => ⟨v, rfl, h⟩, fun ⟨v', e, h⟩ => by cases e; exact h⟩
  | fault r => simp
  | refused r => simp

/-- What every step keeps holds at the end of every run that starts with it. -/
theorem Reaches.induction {P : State → Prop} (hstep : ∀ v w, P v → step v = .next w → P w) {s u : State} {n : Nat}
    (h : Reaches s n u) (hs : P s) : P u := by
  induction n generalizing s with
  | zero => exact reaches_zero.1 h ▸ hs
  | succ n ih =>
    obtain ⟨v, e, h⟩ := reaches_succ.1 h
    exact ih h (hstep s v hs e)

/-! ### Acceptance -/

/-- The pass that a command starts with (R130, R160). -/
def firstPass : Instr → Pass
  | .nop => .single
  | .conv _ _ _ => .single
  | .convsep _ _ => .sep1

/-- The NOT_1D check passes exactly for two 1D kernels (R225). -/
theorem not1dViolated_eq_false {s : State} : not1dViolated s = false ↔ Kernels1D s := by
  simp [not1dViolated, Kernels1D, and_assoc]

/-- The CAPACITY check passes exactly for an intermediate raster that fits IBUF (R232). -/
theorem capacityViolated_eq_false {s : State} : capacityViolated s = false ↔ FitsIbuf s := by
  simp [capacityViolated, FitsIbuf]

section Accepts

variable {i : Instr} {s : State} {t : ElemType} (h : Accepts i s t)
include h

theorem Accepts.common : CommonPreconditions s t := by
  cases i with
  | nop => exact h.elim
  | conv e k r => exact h.2
  | convsep e r => exact h.2.1

theorem Accepts.type : cmdType { s with cmdl := (encode i).setWidth 14 } = some t := by
  cases i with
  | nop => exact h.elim
  | conv e k r => exact (cmdType_conv s e k r).trans h.1
  | convsep e r => exact (cmdType_convsep s e r).trans h.1

theorem Accepts.separable : firstPass i ≠ .single → not1dViolated s = false ∧ capacityViolated s = false := by
  intro hp
  cases i with
  | nop => exact h.elim
  | conv e k r => exact absurd rfl hp
  | convsep e r =>
    obtain ⟨_, _, kernels, fits⟩ := h
    exact ⟨not1dViolated_eq_false.2 kernels, capacityViolated_eq_false.2 fits⟩

/-- A command that passes its checks in IDLE is accepted with its first pass (R205, R229). -/
theorem Accepts.exec_eq (idle : s.Idle) :
    exec i s = .next (accept ((encode i).setWidth 14) (firstPass i) (clearDone s)) := by
  have hallowed : issueAllowed s = true := by simp [issueAllowed, idle]
  have hconv (e : EType) (he : e.elem? = some t) : checkConv e s = none :=
    (checkConv_eq_none e s).2 ⟨t, he, h.common⟩
  cases i with
  | nop => exact h.elim
  | conv e k r => simp [exec, execConv, issue, hallowed, hconv e h.1, firstPass]
  | convsep e r =>
    have hsep : checkConvsep e s = none :=
      (checkConvsep_eq_none e s).2 ⟨hconv e h.1, h.separable (by simp [firstPass])⟩
    simp [exec, execConvsep, issue, hallowed, hsep, firstPass]

/-- The state that acceptance leaves meets the invariant. -/
theorem Accepts.inv (hs : s.Inv) (idle : s.Idle) :
    (accept ((encode i).setWidth 14) (firstPass i) (clearDone s)).Inv :=
  accept_inv hs idle h.type h.common h.separable

end Accepts

/-! ### The engine's steps, where they are enabled -/

theorem engineStep_lane {s : State} {q : Seq} {t : ElemType} {k : Nat} {l : Lane} (run : s.status.busy = true)
    (seq : s.seq = some q) (type : cmdType s = some t) (lane : q.lanes[k]? = some l) :
    engineStep (.lane k) s =
      if l.tap < tapCount s q.pass then
        { s with seq := some { q with lanes := q.lanes.set k { l with tap := l.tap + 1, acc := laneTap s t q l } } }
      else
        { passOut s t q.pass q.z l.y l.x (lanePattern s t q l) with seq := some (afterStore (rasterW s) q k l) } := by
  simp [engineStep, run, laneStep, seq, type, lane]

theorem engineStep_sequence {s : State} {q : Seq} (run : s.status.busy = true) (seq : s.seq = some q)
    (done : bandDone s q = true) :
    engineStep .sequence s =
      if q.z + 1 < zproc s q.pass then
        { s with seq := some { pass := q.pass, z := q.z + 1, rowsDone := [], lanes := [] } }
      else finishPass q.pass s := by
  simp [engineStep, run, closeBand, seq, done]

/-- A band that is not done and of which no lane holds a row has a free row. -/
theorem exists_free_row {s : State} {q : Seq} (done : bandDone s q = false) (lanes : q.lanes = []) :
    ∃ y ∈ List.range (rasterH s), rowFree q y = true := by
  have hnot : ¬ ∀ y < rasterH s, y ∈ q.rowsDone := fun h => by simp [bandDone_iff.2 h] at done
  push Not at hnot
  obtain ⟨y, hy, hdone⟩ := hnot
  exact ⟨y, List.mem_range.2 hy, rowFree_iff.2 ⟨hdone, by simp [lanes]⟩⟩

/-- The default move is one that is enabled (log 10). -/
theorem defaultMove_cases {s : State} {q : Seq} (seq : s.seq = some q) :
    (bandDone s q = true ∧ defaultMove s = .sequence) ∨
      (q.lanes = [] ∧ ∃ y < rasterH s, rowFree q y = true ∧ defaultMove s = .take y) ∨
      (∃ l rest, q.lanes = l :: rest ∧ defaultMove s = .lane 0) := by
  unfold defaultMove
  rw [seq]
  cases done : bandDone s q with
  | true => exact .inl ⟨rfl, by simp [done]⟩
  | false =>
    cases lanes : q.lanes with
    | cons l rest => exact .inr (.inr ⟨l, rest, rfl, by simp [done, lanes]⟩)
    | nil =>
      obtain ⟨y, hy⟩ := Option.isSome_iff_exists.1
        (List.find?_isSome.2 (exists_free_row done lanes))
      exact .inr (.inl ⟨rfl, y, List.mem_range.1 (List.mem_of_find?_eq_some hy), List.find?_some hy,
        by simp [done, lanes, hy]⟩)

/-! ### Progress -/

/-- The rows of the band that are not done. -/
def rowsLeft (s : State) (q : Seq) : Finset Nat := (Finset.range (rasterH s)).filter (· ∉ q.rowsDone)

/-- What the first lane has left: whether there is none yet, the columns of its row, the taps of its sample. -/
def laneRank (s : State) (q : Seq) : ℕ ×ₗ ℕ ×ₗ ℕ :=
  match q.lanes with
  | [] => toLex (1, toLex (0, 0))
  | l :: _ => toLex (0, toLex (rasterW s - l.x, tapCount s q.pass - l.tap))

/-- What a run under the default schedule has left, the most significant first: passes, bands, rows, and the first
lane's work. -/
def runRank (s : State) (q : Seq) : ℕ ×ₗ ℕ ×ₗ ℕ ×ₗ ℕ ×ₗ ℕ ×ₗ ℕ :=
  toLex (if q.pass = .sep1 then 1 else 0,
    toLex (zproc s q.pass - q.z, toLex ((rowsLeft s q).card, laneRank s q)))

theorem SameHostSide.sameCommand {s u : State} (h : SameHostSide s u) : SameCommand s u :=
  ⟨h.operands.params, h.cmdl, h.operands.src, h.operands.dst, h.operands.kaDim, h.operands.kbDim⟩

theorem SameCommand.runRank_eq {s u : State} (same : SameCommand s u) (q : Seq) : runRank u q = runRank s q := by
  simp only [runRank, rowsLeft, laneRank, same.zproc_eq, same.rasterH_eq, same.rasterW_eq, same.tapCount_eq]

/-- Within a band a step of the first lane, or the first take, uses up part of that lane's work. -/
theorem runRank_lt_of_laneRank_lt {s : State} {q q' : Seq} (pass : q'.pass = q.pass) (z : q'.z = q.z)
    (rows : q'.rowsDone = q.rowsDone) (h : laneRank s q' < laneRank s q) : runRank s q' < runRank s q := by
  simp only [runRank, rowsLeft, pass, z, rows]
  exact Prod.Lex.toLex_lt_toLex.2 (.inr ⟨rfl, Prod.Lex.toLex_lt_toLex.2 (.inr ⟨rfl,
    Prod.Lex.toLex_lt_toLex.2 (.inr ⟨rfl, h⟩)⟩)⟩)

/-- A row that gets done leaves fewer rows. -/
theorem card_rowsLeft_lt {s : State} {q q' : Seq} {y : Nat} (row : y < rasterH s) (hy : y ∉ q.rowsDone)
    (rows : q'.rowsDone = insertRising y q.rowsDone) : (rowsLeft s q').card < (rowsLeft s q).card := by
  refine Finset.card_lt_card (Finset.ssubset_iff_of_subset ?_ |>.2 ⟨y, ?_, ?_⟩)
  · intro x
    simp only [rowsLeft, rows, Finset.mem_filter, mem_insertRising]
    tauto
  · simp [rowsLeft, row, hy]
  · simp [rowsLeft, rows, mem_insertRising]

/-- The first lane's store takes it to the next column, or leaves one row fewer. -/
theorem runRank_afterStore_lt {s : State} {q : Seq} {l : Lane} {rest : List Lane} (hq : SeqOk s q)
    (lanes : q.lanes = l :: rest) : runRank s (afterStore (rasterW s) q 0 l) < runRank s q := by
  have hl : l ∈ q.lanes := by simp [lanes]
  obtain ⟨row, hdone⟩ := hq.laneRows l hl
  unfold afterStore
  split
  · rename_i column
    refine runRank_lt_of_laneRank_lt rfl rfl rfl ?_
    simp only [laneRank, lanes, List.set_cons_zero]
    exact Prod.Lex.toLex_lt_toLex.2 (.inr ⟨rfl, Prod.Lex.toLex_lt_toLex.2 (.inl (by omega))⟩)
  · exact Prod.Lex.toLex_lt_toLex.2 (.inr ⟨rfl, Prod.Lex.toLex_lt_toLex.2 (.inr ⟨rfl,
      Prod.Lex.toLex_lt_toLex.2 (.inl (card_rowsLeft_lt row hdone rfl))⟩)⟩)

/-- The next band leaves fewer bands. -/
theorem runRank_nextBand_lt {s : State} {q : Seq} (more : q.z + 1 < zproc s q.pass) :
    runRank s { pass := q.pass, z := q.z + 1, rowsDone := [], lanes := [] } < runRank s q :=
  have bands : zproc s q.pass - (q.z + 1) < zproc s q.pass - q.z := by omega
  Prod.Lex.toLex_lt_toLex.2 (.inr ⟨rfl, Prod.Lex.toLex_lt_toLex.2 (.inl bands)⟩)

/-- Pass 2 leaves fewer passes than pass 1. -/
theorem runRank_freshSeq_lt {s : State} {q : Seq} (pass : q.pass = .sep1) :
    runRank s (freshSeq .sep2) < runRank s q :=
  Prod.Lex.toLex_lt_toLex.2 (.inl (by simp [pass, freshSeq]))

/-- What a step of a run comes to: the command completes, or it goes on with a SEQ of which `P` holds. -/
inductive RunOutcome (s : State) (P : Seq → Prop) : State → Prop where
  | completed : RunOutcome s P (complete s)
  | running {u : State} (q : Seq) (status : u.status = s.status) (seq : u.seq = some q) (holds : P q) :
      RunOutcome s P u

theorem finishPass_outcome {s : State} {P : Seq → Prop} {p : Pass} (h : p = .sep1 → P (freshSeq .sep2)) :
    RunOutcome s P (finishPass p s) := by
  rcases finishPass_cases p s with ⟨_, e⟩ | ⟨hp, e⟩ <;> rw [e]
  · exact .completed
  · rcases startPass_cases .sep2 s with ⟨_, e⟩ | ⟨_, e⟩ | ⟨hp, _⟩
    · rw [e]
      exact .running _ rfl rfl (h hp)
    · rw [e]
      exact .completed
    · cases hp

/-- Each default step of a run completes the command or leaves less to do (R148; log 10). -/
theorem engineDefault_outcome {s : State} {q : Seq} (hs : s.Inv) (run : s.status.busy = true)
    (seq : s.seq = some q) : RunOutcome s (fun q' => runRank s q' < runRank s q) (engineDefault s) := by
  obtain ⟨t, hrun, hq⟩ := hs.running seq
  unfold engineDefault
  rcases defaultMove_cases seq with ⟨done, e⟩ | ⟨lanes, y, row, free, e⟩ | ⟨l, rest, lanes, e⟩ <;> rw [e]
  · rw [engineStep_sequence run seq done]
    split
    · rename_i more
      exact .running _ rfl rfl (runRank_nextBand_lt more)
    · exact finishPass_outcome fun pass => runRank_freshSeq_lt pass
  · have lane : q.lanes.length < s.params.nlanes := by
      obtain ⟨_, _, _, _, nlanes⟩ := hs.params
      rw [lanes]
      exact nlanes
    rw [engineStep_take run seq, if_pos ⟨row, lane, free⟩]
    refine .running _ rfl rfl (runRank_lt_of_laneRank_lt rfl rfl rfl ?_)
    simp only [laneRank, lanes, List.nil_append]
    exact Prod.Lex.toLex_lt_toLex.2 (.inl Nat.zero_lt_one)
  · have lane : q.lanes[0]? = some l := by simp [lanes]
    rw [engineStep_lane run seq hrun.command.type lane]
    split
    · rename_i tap
      refine .running _ rfl rfl (runRank_lt_of_laneRank_lt rfl rfl rfl ?_)
      simp only [laneRank, lanes, List.set_cons_zero]
      exact Prod.Lex.toLex_lt_toLex.2 (.inr ⟨rfl, Prod.Lex.toLex_lt_toLex.2 (.inr ⟨rfl, by omega⟩)⟩)
    · exact .running _ (passOut_status ..) rfl (runRank_afterStore_lt hq lanes)

/-! ### Completion -/

theorem complete_completedFrom (s : State) : CompletedFrom s (complete s) := by
  rw [complete_eq]
  exact ⟨rfl, rfl, rfl⟩

theorem CompletedFrom.congr {s s' u : State} (h : CompletedFrom s u)
    (status : { s.status with busy := false, done := true } = { s'.status with busy := false, done := true }) :
    CompletedFrom s' u :=
  ⟨h.status.trans status, h.seq, h.ibuf⟩

/-- With nothing pending a running command takes a default step (log 10). -/
theorem step_of_running {s : State} (moves : s.moves = []) (run : s.status.busy = true) :
    step s = .next (engineDefault s) := by
  rw [step_nil moves, unattended, if_pos run]

/-- With nothing pending a running command completes (R148, R265). -/
theorem exists_reaches_completed {s : State} {q : Seq} (hs : s.Inv) (moves : s.moves = []) (seq : s.seq = some q) :
    ∃ n u, Reaches s n u ∧ CompletedFrom s u := by
  induction hr : runRank s q using WellFoundedLT.induction generalizing s q with
  | ind r ih =>
    have run : s.status.busy = true := by simp [hs.status.2, seq]
    have hstep := step_of_running moves run
    have host : SameHostSide s (engineDefault s) := (engineStep_effect (defaultMove s) s).sameHostSide
    have inv : (engineDefault s).Inv := (engineStep_effect (defaultMove s) s).inv hs
    have outcome := engineDefault_outcome hs run seq
    generalize engineDefault s = v at hstep host inv outcome
    cases outcome with
    | completed => exact ⟨1, _, reaches_succ.2 ⟨_, hstep, reaches_zero.2 rfl⟩, complete_completedFrom s⟩
    | running q' status seq' less =>
      obtain ⟨n, u, h, done⟩ := ih (runRank v q') (by rw [host.sameCommand.runRank_eq, ← hr]; exact less) inv
        (host.moves.trans moves) seq' rfl
      exact ⟨n + 1, u, reaches_succ.2 ⟨v, hstep, h⟩, done.congr (by rw [status])⟩

/-! ### What a run with nothing pending keeps -/

theorem SameOperands.trans {s v u : State} (h : SameOperands s v) (h' : SameOperands v u) : SameOperands s u where
  params := h'.params.trans h.params
  ctrl := h'.ctrl.trans h.ctrl
  offset := h'.offset.trans h.offset
  src := h'.src.trans h.src
  dst := h'.dst.trans h.dst
  kaDim := h'.kaDim.trans h.kaDim
  kbDim := h'.kbDim.trans h.kbDim
  kaCoef := h'.kaCoef.trans h.kaCoef
  kbCoef := h'.kbCoef.trans h.kbCoef

theorem SameHostSide.trans {s v u : State} (h : SameHostSide s v) (h' : SameHostSide v u) : SameHostSide s u :=
  ⟨h.operands.trans h'.operands, h'.cmdl.trans h.cmdl, h'.rdata.trans h.rdata, h'.moves.trans h.moves⟩

/-- UnchangedOutside chains over states with one destination. -/
theorem unchangedOutside_trans {s v u : State} {t : ElemType} (dst : v.dst = s.dst) (h : UnchangedOutside s v t)
    (h' : UnchangedOutside v u t) : UnchangedOutside s u t :=
  fun a ha hfp => (h' a ha (dst ▸ hfp)).trans (h a ha hfp)

/-- With nothing pending a step is one of the engine, or nothing. -/
theorem engineEffect_of_step {s u : State} (moves : s.moves = []) (h : step s = .next u) : EngineEffect s u := by
  rw [step_nil moves] at h
  cases h
  unfold unattended
  split
  · exact engineStep_effect _ s
  · exact .idle

/-- What holds along a run with nothing pending: the invariant, what the host has put in place, and the bytes outside
FP(DST, T). -/
structure Undisturbed (v : State) (t : ElemType) (u : State) : Prop where
  inv : u.Inv
  host : SameHostSide v u
  outside : UnchangedOutside v u t

theorem Reaches.undisturbed {v u : State} {t : ElemType} {n : Nat} (h : Reaches v n u) (hv : v.Inv)
    (moves : v.moves = []) (type : cmdType v = some t) : Undisturbed v t u := by
  refine h.induction (P := Undisturbed v t) (fun w w' hw e => ?_) ⟨hv, sameHostSide_refl v, fun _ _ _ => rfl⟩
  have effect : EngineEffect w w' := engineEffect_of_step (hw.host.moves.trans moves) e
  have type' : cmdType w = some t := hw.host.sameCommand.cmdType_eq.trans type
  exact ⟨effect.inv hw.inv, hw.host.trans effect.sameHostSide,
    unchangedOutside_trans hw.host.operands.dst hw.outside (effect.unchangedOutside hw.inv type')⟩

/-- A command that is accepted with nothing pending completes, and changes no operand register and no byte outside
FP(DST, T) (R88, R148). -/
theorem Accepts.completes {s : State} {i : Instr} {t : ElemType} (h : Accepts i s t) (hs : s.Inv) (idle : s.Idle)
    (moves : s.moves = []) :
    ∃ v n u, exec i s = .next v ∧ Reaches v n u ∧ CompletedFrom s u ∧ SameOperands s u ∧ UnchangedOutside s u t := by
  have inv := h.inv hs idle
  have hexec := h.exec_eq idle
  rcases accept_cases (p := firstPass i) h.type h.common with ⟨_, e⟩ | ⟨_, e⟩ <;> rw [e] at inv hexec
  · obtain ⟨n, u, hu, done⟩ := exists_reaches_completed inv moves rfl
    obtain ⟨_, ⟨operands, _, _, _⟩, outside⟩ := hu.undisturbed inv moves h.type
    exact ⟨_, n, u, hexec, hu, done.congr rfl, ⟨operands.params, operands.ctrl, operands.offset, operands.src,
      operands.dst, operands.kaDim, operands.kbDim, operands.kaCoef, operands.kbCoef⟩, outside⟩
  · exact ⟨_, 0, _, hexec, reaches_zero.2 rfl, ⟨rfl, rfl, rfl⟩, ⟨rfl, rfl, rfl, rfl, rfl, rfl, rfl, rfl, rfl⟩,
      fun _ _ _ => rfl⟩

/-- Settles O21: the default schedule always makes progress, and no engine step leaves FP(DST, T), hazard or not. -/
theorem anyAcceptedLaunchCompletes : Obligations.AnyAcceptedLaunchCompletes := by
  unfold Obligations.AnyAcceptedLaunchCompletes
  exact fun s i t hs idle moves _ h => h.completes hs idle moves

end Sys2Proof.Machine
end

section
/-! SUPPORT. What ACC holds after some taps and after all of them, and which value a quantized sample loads back as: the
arithmetic that the result of a run rests on. -/

namespace Sys2Proof.Machine

/-! ### ACC and the exact sum (R138, R139) -/

section Taps

variable (accW w h kw kh : Nat) (coef inp : Nat → Nat → Int) (x y : Nat)

/-- What the tap at kernel position (ky, kx) adds to the exact sum (R135, R138). -/
def tapTerm (ky kx : Nat) : Int :=
  if inside w h x y (tapI kw kx) (tapJ kh ky) then tapProduct kw kh coef inp x y ky kx else 0

/-- A tap adds its term in ACC_W bits, once ACC holds an ACC_W-bit value (R139). -/
theorem tapStep_wrapS (sum : Int) (t : Nat) :
    tapStep accW w h kw kh coef inp x y (wrapS accW sum) t =
      wrapS accW (sum + tapTerm w h kw kh coef inp x y (t / kw) (t % kw)) := by
  unfold tapStep tapTerm
  split
  · exact Int.bmod_add_bmod
  · rw [Int.add_zero]

/-- ACC after `n` taps is their exact sum in ACC_W bits (R138, R139). -/
theorem foldl_tapStep (n : Nat) :
    (List.range n).foldl (tapStep accW w h kw kh coef inp x y) 0 =
      wrapS accW ((List.range n).map fun t => tapTerm w h kw kh coef inp x y (t / kw) (t % kw)).sum := by
  induction n with
  | zero => simp [wrapS]
  | succ n ih =>
    rw [List.range_succ, List.foldl_append, ih, List.foldl_cons, List.foldl_nil, tapStep_wrapS, List.map_append,
      List.sum_append, List.map_singleton, List.sum_singleton]

end Taps

/-- Numbering the positions of a rectangle row by row adds up the same terms. -/
theorem sum_range_mul (f : Nat → Nat → Int) (kw kh : Nat) :
    ((List.range (kw * kh)).map fun t => f (t / kw) (t % kw)).sum =
      ((List.range kh).map fun ky => ((List.range kw).map (f ky)).sum).sum := by
  induction kh with
  | zero => simp
  | succ kh ih =>
    have hrow : (List.range kw).map (fun kx => f ((kw * kh + kx) / kw) ((kw * kh + kx) % kw)) =
        (List.range kw).map (f kh) := by
      refine List.map_congr_left fun kx hkx => ?_
      have hlt : kx < kw := List.mem_range.1 hkx
      rw [Nat.mul_add_div (by omega), Nat.mul_add_mod, Nat.div_eq_of_lt hlt, Nat.mod_eq_of_lt hlt, Nat.add_zero]
    rw [Nat.mul_succ, List.range_add, List.range_succ (n := kh)]
    simp only [List.map_append, List.sum_append, List.map_map, Function.comp_def, ih, hrow, List.map_singleton,
      List.sum_singleton]

/-- ACC after all taps is the exact sum in ACC_W bits (R138, R139). -/
theorem tapSum_eq_wrapS (accW w h kw kh : Nat) (coef inp : Nat → Nat → Int) (x y : Nat) :
    tapSum accW w h kw kh coef inp x y = wrapS accW (exactSum w h kw kh coef inp x y) := by
  rw [tapSum, foldl_tapStep, sum_range_mul (tapTerm w h kw kh coef inp x y)]
  rfl

/-- A tap reads the input inside the raster only (R135). -/
theorem tapStep_congr (accW : Nat) {w h : Nat} (kw kh : Nat) (coef : Nat → Nat → Int) {inp inp' : Nat → Nat → Int}
    (hinp : ∀ yy xx, yy < h → xx < w → inp yy xx = inp' yy xx) (x y : Nat) (acc : Int) (t : Nat) :
    tapStep accW w h kw kh coef inp x y acc t = tapStep accW w h kw kh coef inp' x y acc t := by
  unfold tapStep
  split
  · rename_i hin
    simp only [inside, Bool.and_eq_true, decide_eq_true_eq] at hin
    rw [tapProduct, tapProduct, hinp _ _ (by omega) (by omega)]
  · rfl

/-! ### The quantizer (R184, R185, R188) -/

theorem elemBits_le (t : ElemType) : elemBits t ≤ 32 := by
  cases t <;> decide

/-- Under the WIDTH check the accumulator's range is larger than the type's (R186). -/
theorem doClip_of_width {accW : Nat} {t : ElemType} (h : elemBits t < accW) : doClip accW t = true := by
  have hbits : (2 : Int) ^ elemBits t = 2 * 2 ^ (elemBits t - 1) := by
    rw [← pow_succ', Nat.sub_add_cancel (elemBits_pos t)]
  have hacc : (2 : Int) ^ elemBits t ≤ 2 ^ (accW - 1) := pow_le_pow_right₀ (by decide) (by omega)
  have hpos : (0 : Int) < 2 ^ (elemBits t - 1) := by positivity
  apply decide_eq_true
  unfold tMin tMax accMin accMax
  push_cast
  split <;> omega

/-- FPQ under the WIDTH check is the clamp of the scaled sum, narrowed (R184, R185, R186). -/
theorem fpq_of_width {accW : Nat} {t : ElemType} (h : elemBits t < accW) (sum : Int) (rshift : Nat) (offset : Int) :
    fpq accW t sum rshift offset =
      lowN (elemBits t) (clamp (floorShr sum rshift + offset) (tMin t) (tMax t)) := by
  rw [fpq, fpqClip, if_pos (doClip_of_width h), fpqScale_eq]

/-- A narrowed value has N bits (R9). -/
theorem lowN_toNat {n : Nat} (hn : n ≤ 32) (v : Int) : (lowN n v).toNat = (v % (2 ^ n : Nat)).toNat := by
  have hlt : v % (2 ^ n : Nat) < (2 ^ n : Nat) := Int.emod_lt_of_pos v (by exact_mod_cast Nat.two_pow_pos n)
  have hle : (2 : Nat) ^ n ≤ 2 ^ 32 := Nat.pow_le_pow_right (by decide) hn
  rw [lowN, BitVec.toNat_ofNat]
  exact Nat.mod_eq_of_lt (by omega)

theorem lowN_toNat_lt {n : Nat} (hn : n ≤ 32) (v : Int) : (lowN n v).toNat < 2 ^ n := by
  have hlt : v % (2 ^ n : Nat) < (2 ^ n : Nat) := Int.emod_lt_of_pos v (by exact_mod_cast Nat.two_pow_pos n)
  have hpos := Nat.two_pow_pos n
  rw [lowN_toNat hn]
  omega

/-- A value of a type is what its narrowed pattern reads as (R11, R188). -/
theorem valT_lowN {t : ElemType} {v : Int} (h : tMin t ≤ v) (h' : v ≤ tMax t) : valT t (lowN (elemBits t) v) = v := by
  have hbits : (2 : Int) ^ elemBits t = 2 * 2 ^ (elemBits t - 1) := by
    rw [← pow_succ', Nat.sub_add_cancel (elemBits_pos t)]
  have hcast : (((lowN (elemBits t) v).toNat : Nat) : Int) = v % (2 ^ elemBits t : Nat) := by
    rw [lowN_toNat (elemBits_le t)]
    exact Int.toNat_of_nonneg (Int.emod_nonneg _ (by positivity))
  unfold valT
  unfold tMin at h
  unfold tMax at h'
  split
  · rename_i hs
    rw [if_pos hs] at h h'
    push_cast at h h'
    rw [wrapS, hcast, Int.emod_bmod]
    apply Int.bmod_eq_of_le <;> push_cast <;> omega
  · rename_i hs
    rw [if_neg hs] at h h'
    push_cast at h'
    rw [Int.natCast_mod, hcast, Int.emod_emod_of_dvd _ (dvd_refl _)]
    exact Int.emod_eq_of_lt h (by push_cast; omega)

/-- Unscaled, a quantized sample loads back as the clamp of the sum: the intermediate sample of R167. -/
theorem valT_fpq_unscaled {accW : Nat} {t : ElemType} (h : elemBits t < accW) (sum : Int) :
    valT t (fpq accW t sum 0 0) = clamp sum (tMin t) (tMax t) := by
  obtain ⟨hmin, hmax⟩ := tMin_le_zero_le_tMax t
  obtain ⟨hlo, hhi⟩ := clamp_range (v := sum) (hmin.trans hmax)
  have hscale : floorShr sum 0 + 0 = sum := by simp [floorShr]
  rw [fpq_of_width h, hscale, valT_lowN hlo hhi]

end Sys2Proof.Machine
end

section
/-! SUPPORT. Which destination and intermediate samples a run has stored, and that two samples of a footprint without
repetitions share no byte. -/

namespace Sys2Proof.Machine

/-! ### The samples that SEQ says are stored (R39) -/

/-- In SEQ the current pass has stored sample (z, y, x): its band is closed, or its row is done, or a lane has passed
its column. -/
def Seq.Stored (q : Seq) (z y x : Nat) : Prop :=
  z < q.z ∨ (z = q.z ∧ (y ∈ q.rowsDone ∨ ∃ l ∈ q.lanes, l.y = y ∧ x < l.x))

/-- What some entry of a list satisfies, entry number `k` or another one does. -/
theorem exists_mem_iff_eraseIdx {α : Type} {P : α → Prop} {l : List α} {k : Nat} {a : α} (ha : l[k]? = some a) :
    (∃ b ∈ l, P b) ↔ P a ∨ ∃ b ∈ l.eraseIdx k, P b := by
  constructor
  · rintro ⟨b, hb, hP⟩
    obtain ⟨i, hi⟩ := List.mem_iff_getElem?.1 hb
    by_cases hik : i = k
    · subst hik
      cases ha.symm.trans hi
      exact .inl hP
    · exact .inr ⟨b, List.mem_eraseIdx_iff_getElem?.2 ⟨i, hik, hi⟩, hP⟩
  · rintro (hP | ⟨b, hb, hP⟩)
    · exact ⟨a, List.mem_of_getElem? ha, hP⟩
    · exact ⟨b, List.mem_of_mem_eraseIdx hb, hP⟩

/-- The same of a list whose entry number `k` has been replaced. -/
theorem exists_mem_set_iff {α : Type} {P : α → Prop} {l : List α} {k : Nat} {a b : α} (ha : l[k]? = some a) :
    (∃ c ∈ l.set k b, P c) ↔ P b ∨ ∃ c ∈ l.eraseIdx k, P c := by
  have hk : k < l.length := (List.getElem?_eq_some_iff.1 ha).1
  rw [exists_mem_iff_eraseIdx (List.getElem?_set_self hk), List.eraseIdx_set_eq]

/-- Nothing is stored when a pass begins. -/
theorem not_stored_freshSeq (p : Pass) (z y x : Nat) : ¬ (freshSeq p).Stored z y x := by
  simp [Seq.Stored, freshSeq]

/-- A lane that takes a row stores nothing by that. -/
theorem stored_take {q : Seq} {r z y x : Nat} :
    Seq.Stored { q with lanes := q.lanes ++ [{ y := r, x := 0, tap := 0, acc := 0 }] } z y x ↔ q.Stored z y x := by
  simp [Seq.Stored, or_and_right, exists_or]

/-- A lane that handles a tap stores nothing by that. -/
theorem stored_setLane {q : Seq} {k : Nat} {l l' : Lane} (lane : q.lanes[k]? = some l) (row : l'.y = l.y)
    (column : l'.x = l.x) {z y x : Nat} : Seq.Stored { q with lanes := q.lanes.set k l' } z y x ↔ q.Stored z y x := by
  simp only [Seq.Stored, exists_mem_set_iff lane, exists_mem_iff_eraseIdx lane, row, column]

/-- A store adds its own sample, and no other sample of the raster. -/
theorem stored_afterStore {q : Seq} {k w : Nat} {l : Lane} (lane : q.lanes[k]? = some l) (column : l.x < w)
    {z y x : Nat} (hx : x < w) :
    (afterStore w q k l).Stored z y x ↔ q.Stored z y x ∨ (z = q.z ∧ y = l.y ∧ x = l.x) := by
  unfold afterStore
  split
  · have hcolumns : l.y = y ∧ x < l.x + 1 ↔ (l.y = y ∧ x < l.x) ∨ (y = l.y ∧ x = l.x) := by omega
    simp only [Seq.Stored, exists_mem_set_iff lane, exists_mem_iff_eraseIdx lane, hcolumns]
    grind
  · have hrow : y = l.y ↔ (l.y = y ∧ x < l.x) ∨ (y = l.y ∧ x = l.x) := by omega
    simp only [Seq.Stored, mem_insertRising, exists_mem_iff_eraseIdx lane]
    grind

/-- Where every row of a band is done, the band's samples are stored, whether the next band has begun or not. -/
theorem stored_of_bandDone {s : State} {q : Seq} (done : bandDone s q = true) {z y x : Nat} (hz : z < q.z + 1)
    (hy : y < rasterH s) : q.Stored z y x := by
  rcases Nat.lt_succ_iff_lt_or_eq.1 hz with h | h
  · exact .inl h
  · exact .inr ⟨h, .inl (bandDone_iff.1 done y hy)⟩

/-- When a band begins, the samples of the bands before it are the stored ones. -/
theorem stored_emptyBand {p : Pass} {n z y x : Nat} :
    Seq.Stored { pass := p, z := n, rowsDone := [], lanes := [] } z y x ↔ z < n := by
  simp [Seq.Stored]

/-! ### Samples that share no byte (R258 item 2) -/

/-- A list put together without repetitions has no entry from two of its parts. -/
theorem eq_of_mem_flatMap_of_nodup {α β : Type} {l : List α} {f : α → List β} (h : (l.flatMap f).Nodup) {a b : α}
    (ha : a ∈ l) (hb : b ∈ l) {c : β} (hca : c ∈ f a) (hcb : c ∈ f b) : a = b := by
  by_contra hab
  have hdisjoint : Std.Symm (Function.onFun List.Disjoint f) := ⟨fun _ _ hd => hd.symm⟩
  exact (List.nodup_flatMap.1 h).2.forall ha hb hab hca hcb

/-- In a footprint without repetitions a byte belongs to one sample only. -/
theorem sample_eq_of_nodup {d : Descriptor} {t : ElemType} {zn z y x z' y' x' a : Nat}
    (h : (footprint d t zn).Nodup) (hz : z < zn) (hy : y < d.h.toNat) (hx : x < d.w.toNat) (hz' : z' < zn)
    (hy' : y' < d.h.toNat) (hx' : x' < d.w.toNat) (ha : a ∈ sampleBytes d t z y x)
    (ha' : a ∈ sampleBytes d t z' y' x') : z = z' ∧ y = y' ∧ x = x' := by
  have mem_row {z y x : Nat} (hx : x < d.w.toNat) (ha : a ∈ sampleBytes d t z y x) :
      a ∈ (List.range d.w.toNat).flatMap fun x => sampleBytes d t z y x :=
    List.mem_flatMap.2 ⟨x, List.mem_range.2 hx, ha⟩
  have mem_band {z y x : Nat} (hy : y < d.h.toNat) (hx : x < d.w.toNat) (ha : a ∈ sampleBytes d t z y x) :
      a ∈ (List.range d.h.toNat).flatMap fun y => (List.range d.w.toNat).flatMap fun x => sampleBytes d t z y x :=
    List.mem_flatMap.2 ⟨y, List.mem_range.2 hy, mem_row hx ha⟩
  have hzz : z = z' := eq_of_mem_flatMap_of_nodup h (List.mem_range.2 hz) (List.mem_range.2 hz')
    (mem_band hy hx ha) (mem_band hy' hx' ha')
  subst hzz
  have hband := (List.nodup_flatMap.1 h).1 z (List.mem_range.2 hz)
  have hyy : y = y' := eq_of_mem_flatMap_of_nodup hband (List.mem_range.2 hy) (List.mem_range.2 hy')
    (mem_row hx ha) (mem_row hx' ha')
  subst hyy
  have hrow := (List.nodup_flatMap.1 hband).1 y (List.mem_range.2 hy)
  exact ⟨rfl, rfl, eq_of_mem_flatMap_of_nodup hrow (List.mem_range.2 hx) (List.mem_range.2 hx') ha ha'⟩

/-- Byte `n` of a sample is one of its bytes (R73, R89). -/
theorem mem_sampleBytes {d : Descriptor} {t : ElemType} {z y x n : Nat} (hn : n < elemBytes t) :
    wrapAddr (sampleAddr d t z y x + n) ∈ sampleBytes d t z y x :=
  mem_accessBytes.2 ⟨n, hn, rfl⟩

/-- A load reads its sample's bytes and nothing else (R77). -/
theorem loadSample_congr {m m' : List Host.Cell} {d : Descriptor} {t : ElemType} {z y x : Nat}
    (h : ∀ a ∈ sampleBytes d t z y x, readByte m a = readByte m' a) :
    loadSample m d t z y x = loadSample m' d t z y x := by
  rw [loadSample, loadSample, memRead, memRead, memReadNat_congr _ _ fun n hn => ?_]
  simpa using h _ (mem_sampleBytes hn)

/-! ### Raster memory with part of the result stored -/

/-- Raster memory `m`, where DST's samples in `stored` hold `pattern` and every other byte is as in `s`. -/
structure HoldsSamples (s : State) (t : ElemType) (pattern : Nat → Nat → Nat → BitVec 32)
    (stored : Nat → Nat → Nat → Prop) (m : List Host.Cell) : Prop where
  final : ∀ z y x n, z < s.dst.z.toNat → y < s.dst.h.toNat → x < s.dst.w.toNat → n < elemBytes t → stored z y x →
    readByte m (sampleAddr s.dst t z y x + n) = (pattern z y x).extractLsb' (8 * n) 8
  old : ∀ z y x n, z < s.dst.z.toNat → y < s.dst.h.toNat → x < s.dst.w.toNat → n < elemBytes t → ¬ stored z y x →
    readByte m (sampleAddr s.dst t z y x + n) = readByte s.mem (sampleAddr s.dst t z y x + n)
  outside : ∀ a, a < memSize → a ∉ footprint s.dst t s.dst.z.toNat → readByte m a = readByte s.mem a

section HoldsSamples

variable {s : State} {t : ElemType} {pattern : Nat → Nat → Nat → BitVec 32} {stored : Nat → Nat → Nat → Prop}
  {m : List Host.Cell}

/-- Nothing is stored at first. -/
theorem holdsSamples_none (h : ∀ z y x, ¬ stored z y x) : HoldsSamples s t pattern stored s.mem where
  final z y x _ _ _ _ _ hs := absurd hs (h z y x)
  old _ _ _ _ _ _ _ _ _ := rfl
  outside _ _ _ := rfl

/-- Which samples are stored matters for DST's own samples only. -/
theorem HoldsSamples.congr (h : HoldsSamples s t pattern stored m) {stored' : Nat → Nat → Nat → Prop}
    (hiff : ∀ z y x, z < s.dst.z.toNat → y < s.dst.h.toNat → x < s.dst.w.toNat → (stored' z y x ↔ stored z y x)) :
    HoldsSamples s t pattern stored' m where
  final z y x n hz hy hx hn hs := h.final z y x n hz hy hx hn ((hiff z y x hz hy hx).1 hs)
  old z y x n hz hy hx hn hs := h.old z y x n hz hy hx hn fun hs' => hs ((hiff z y x hz hy hx).2 hs')
  outside := h.outside

/-- Storing one more sample's pattern (R78). -/
theorem HoldsSamples.store (h : HoldsSamples s t pattern stored m) (hwf : Memory.wf m = true)
    (distinct : (footprint s.dst t s.dst.z.toNat).Nodup) {z₀ y₀ x₀ : Nat} (hz₀ : z₀ < s.dst.z.toNat)
    (hy₀ : y₀ < s.dst.h.toNat) (hx₀ : x₀ < s.dst.w.toNat) {stored' : Nat → Nat → Nat → Prop}
    (hiff : ∀ z y x, x < s.dst.w.toNat → (stored' z y x ↔ stored z y x ∨ (z = z₀ ∧ y = y₀ ∧ x = x₀))) :
    HoldsSamples s t pattern stored' (storeSample m s.dst t z₀ y₀ x₀ (pattern z₀ y₀ x₀)) := by
  have other {z y x n : Nat} (hz : z < s.dst.z.toNat) (hy : y < s.dst.h.toNat) (hx : x < s.dst.w.toNat)
      (hn : n < elemBytes t) (hne : ¬ (z = z₀ ∧ y = y₀ ∧ x = x₀)) :
      readByte (storeSample m s.dst t z₀ y₀ x₀ (pattern z₀ y₀ x₀)) (sampleAddr s.dst t z y x + n) =
        readByte m (sampleAddr s.dst t z y x + n) :=
    readByte_storeSample_of_not_mem hwf _ fun hmem =>
      hne (sample_eq_of_nodup distinct hz hy hx hz₀ hy₀ hx₀ (mem_sampleBytes hn) hmem)
  constructor
  · intro z y x n hz hy hx hn hs
    by_cases hne : z = z₀ ∧ y = y₀ ∧ x = x₀
    · obtain ⟨rfl, rfl, rfl⟩ := hne
      exact readByte_memWrite hwf _ (elemBytes_le t) _ hn
    · rw [other hz hy hx hn hne]
      exact h.final z y x n hz hy hx hn (((hiff z y x hx).1 hs).resolve_right hne)
  · intro z y x n hz hy hx hn hs
    rw [hiff z y x hx, not_or] at hs
    rw [other hz hy hx hn hs.2]
    exact h.old z y x n hz hy hx hn hs.1
  · intro a ha hfp
    rw [readByte_storeSample_of_not_mem hwf _ fun hmem => hfp ?_, h.outside a ha hfp]
    rw [wrapAddr_of_lt ha] at hmem
    exact sampleBytes_subset_footprint hz₀ hy₀ hx₀ a hmem

theorem HoldsSamples.oldOrNew {u : State} (h : HoldsSamples s t pattern stored u.mem) : OldOrNew s u t pattern := by
  intro z y x n hz hy hx hn
  by_cases hs : stored z y x
  · exact .inr (h.final z y x n hz hy hx hn hs)
  · exact .inl (h.old z y x n hz hy hx hn hs)

/-- With every sample stored, memory reads as the result, whose patterns have N(T) bits (R76, R142, R171). -/
theorem HoldsSamples.holdsResult {u : State} (h : HoldsSamples s t pattern (fun _ _ _ => True) u.mem)
    (hpattern : ∀ z y x, (pattern z y x).toNat < 2 ^ elemBits t) : HoldsResult s u t pattern := by
  refine ⟨fun z y x hz hy hx => BitVec.eq_of_toNat_eq ?_, h.outside⟩
  rw [memRead_toNat_of_bytes fun n hn => h.final z y x n hz hy hx hn trivial, ← elemBits_eq,
    Nat.mod_eq_of_lt (hpattern z y x)]

/-- A source sample loads as it did at issue, whatever of the result is stored, if the footprints share no byte (R258
item 1). -/
theorem HoldsSamples.loadSample_src (h : HoldsSamples s t pattern stored m) (launch : LaunchOk s t) {z y x : Nat}
    (hz : z < s.src.z.toNat) (hy : y < s.src.h.toNat) (hx : x < s.src.w.toNat) :
    loadSample m s.src t z y x = loadSample s.mem s.src t z y x := by
  refine loadSample_congr fun a ha => ?_
  have hsrc : a ∈ footprint s.src t s.src.z.toNat := sampleBytes_subset_footprint hz hy hx a ha
  exact h.outside a (lt_memSize_of_mem_footprint hsrc) fun hdst => launch.1 a hdst hsrc

end HoldsSamples

end Sys2Proof.Machine
end

section
/-! SUPPORT. What a running command has stored at every point of a run that nothing disturbs, in closed form. Obligation
O19. -/

namespace Sys2Proof.Machine

/-! ### The closed form of a pass -/

/-- The input of a pass as a function of the state at issue: the source, or the intermediate raster of R171. -/
def passInput (s : State) (t : ElemType) : Pass → Nat → Nat → Nat → Int
  | .single => srcBand s t
  | .sep1 => srcBand s t
  | .sep2 => midSample s t

/-- ACC of sample (z, y, x) of a pass after `n` taps (R138). -/
def passAcc (s : State) (t : ElemType) (p : Pass) (z y x n : Nat) : Int :=
  (List.range n).foldl (tapStep s.params.accW (rasterW s) (rasterH s) (viewW s p) (viewH s p) (viewCoef s p)
    (passInput s t p z) x y) 0

/-- The pattern a pass gives sample (z, y, x) (R140, R180). -/
def passResult (s : State) (t : ElemType) (p : Pass) (z y x : Nat) : BitVec 32 :=
  fpq s.params.accW t (passAcc s t p z y x (tapCount s p)) (passRshift s p) (passOffset s p)

/-- The pass that stores to DST, for the command that a pass belongs to (R130, R160). -/
def lastPass : Pass → Pass
  | .single => .single
  | .sep1 => .sep2
  | .sep2 => .sep2

theorem lastPass_of_ne {p : Pass} (h : p ≠ .sep1) : lastPass p = p := by
  cases p <;> simp_all [lastPass]

theorem passAcc_succ (s : State) (t : ElemType) (p : Pass) (z y x n : Nat) :
    passAcc s t p z y x (n + 1) =
      tapStep s.params.accW (rasterW s) (rasterH s) (viewW s p) (viewH s p) (viewCoef s p) (passInput s t p z) x y
        (passAcc s t p z y x n) n := by
  simp [passAcc, List.range_succ]

/-- ACC after all taps is the exact sum of the pass in ACC_W bits (R139, R142). -/
theorem passAcc_tapCount (s : State) (t : ElemType) (p : Pass) (z y x : Nat) :
    passAcc s t p z y x (tapCount s p) =
      wrapS s.params.accW (exactSum (rasterW s) (rasterH s) (viewW s p) (viewH s p) (viewCoef s p)
        (passInput s t p z) x y) :=
  tapSum_eq_wrapS ..

theorem passResult_toNat_lt {s : State} {t : ElemType} (p : Pass) (width : elemBits t < s.params.accW) (z y x : Nat) :
    (passResult s t p z y x).toNat < 2 ^ elemBits t := by
  rw [passResult, fpq_of_width width]
  exact lowN_toNat_lt (elemBits_le t) _

/-- What pass 1 stores loads back from IBUF as the intermediate sample of R171. -/
theorem valT_passResult_sep1 {s : State} {t : ElemType} (width : elemBits t < s.params.accW) (z y x : Nat) :
    valT t (passResult s t .sep1 z y x) = midSample s t z y x := by
  rw [passResult, passAcc_tapCount]
  exact valT_fpq_unscaled width _

/-! ### The command that was issued -/

/-- The operand registers, CTRL, the parameters and CMDL of two states agree: all that a pass reads but its input. -/
structure SameLaunch (s u : State) : Prop where
  operands : SameOperands s u
  cmdl : u.cmdl = s.cmdl

theorem sameLaunch_refl (s : State) : SameLaunch s s := ⟨(sameHostSide_refl s).operands, rfl⟩

theorem SameLaunch.trans_host {s u v : State} (h : SameLaunch s u) (h' : SameHostSide u v) : SameLaunch s v :=
  ⟨h.operands.trans h'.operands, h'.cmdl.trans h.cmdl⟩

/-- The model's fields for the host are not among those of the launch. -/
theorem SameLaunch.withHost {s u : State} (h : SameLaunch s u) (w : Word) (rest : List Move) :
    SameLaunch s { u with rdata := w, moves := rest } :=
  ⟨h.operands.trans ⟨rfl, rfl, rfl, rfl, rfl, rfl, rfl, rfl, rfl⟩, h.cmdl⟩

section SameLaunch

variable {s u : State} (same : SameLaunch s u)
include same

theorem SameLaunch.sameCommand : SameCommand s u :=
  ⟨same.operands.params, same.cmdl, same.operands.src, same.operands.dst, same.operands.kaDim, same.operands.kbDim⟩

theorem SameLaunch.sameCommand_symm : SameCommand u s := by
  obtain ⟨h1, h2, h3, h4, h5, h6⟩ := same.sameCommand
  exact ⟨h1.symm, h2.symm, h3.symm, h4.symm, h5.symm, h6.symm⟩

theorem SameLaunch.cmdKsel_eq : cmdKsel u = cmdKsel s := by
  simp [cmdKsel, same.cmdl]

theorem SameLaunch.viewW_eq (p : Pass) : viewW u p = viewW s p := by
  cases p <;> simp [viewW, same.cmdKsel_eq, same.sameCommand.bankDim_eq, same.operands.kaDim]

theorem SameLaunch.viewH_eq (p : Pass) : viewH u p = viewH s p := by
  cases p <;> simp [viewH, same.cmdKsel_eq, same.sameCommand.bankDim_eq, same.operands.kbDim]

theorem SameLaunch.bankCoef_eq (bank : Bank) : bankCoef u bank = bankCoef s bank := by
  have hentries : bankEntries u bank = bankEntries s bank := by
    cases bank
    · exact same.operands.kaCoef
    · exact same.operands.kbCoef
  funext ky kx
  rw [bankCoef, bankCoef, hentries]

theorem SameLaunch.viewCoef_eq (p : Pass) : viewCoef u p = viewCoef s p := by
  funext ky kx
  cases p <;> simp [viewCoef, same.cmdKsel_eq, same.bankCoef_eq]

theorem SameLaunch.passRshift_eq (p : Pass) : passRshift u p = passRshift s p := by
  cases p <;> simp [passRshift, cmdRshift, same.cmdl]

theorem SameLaunch.passOffset_eq (p : Pass) : passOffset u p = passOffset s p := by
  cases p <;> simp [passOffset, offsetVal, same.operands.offset]

theorem SameLaunch.ibufIndex_eq (z y x : Nat) : ibufIndex u z y x = ibufIndex s z y x := by
  rw [ibufIndex, ibufIndex, same.sameCommand.rasterH_eq, same.sameCommand.rasterW_eq]

/-- A tap of a lane is a tap of the closed form, where the input read is that of the closed form (R138). -/
theorem SameLaunch.laneTap_eq {t : ElemType} {q : Seq} (l : Lane)
    (hin : ∀ yy xx, yy < rasterH s → xx < rasterW s →
      passIn u t q.pass q.z yy xx = passInput s t q.pass q.z yy xx) :
    laneTap u t q l =
      tapStep s.params.accW (rasterW s) (rasterH s) (viewW s q.pass) (viewH s q.pass) (viewCoef s q.pass)
        (passInput s t q.pass q.z) l.x l.y l.acc l.tap := by
  rw [laneTap, same.operands.params, same.sameCommand.rasterW_eq, same.sameCommand.rasterH_eq, same.viewW_eq,
    same.viewH_eq, same.viewCoef_eq]
  exact tapStep_congr _ _ _ _ hin _ _ _ _

theorem SameLaunch.lanePattern_eq (t : ElemType) (q : Seq) (l : Lane) :
    lanePattern u t q l = fpq s.params.accW t l.acc (passRshift s q.pass) (passOffset s q.pass) := by
  rw [lanePattern, same.operands.params, same.passRshift_eq, same.passOffset_eq]

end SameLaunch

/-! ### IBUF's numbering (R36, R91) -/

/-- A quotient and a remainder determine each other. -/
theorem eq_of_mul_add_eq {n a a' b b' : Nat} (hb : b < n) (hb' : b' < n) (h : a * n + b = a' * n + b') :
    a = a' ∧ b = b' := by
  have hn : 0 < n := by omega
  have hdiv (c d : Nat) (hd : d < n) : (c * n + d) / n = c := by
    rw [Nat.add_comm, Nat.add_mul_div_right _ _ hn, Nat.div_eq_of_lt hd, Nat.zero_add]
  have ha : a = a' := by rw [← hdiv a b hb, ← hdiv a' b' hb', h]
  subst ha
  exact ⟨rfl, Nat.add_left_cancel h⟩

/-- Two samples of the raster have two numbers in IBUF. -/
theorem ibufIndex_inj {s : State} {z y x z' y' x' : Nat} (hy : y < rasterH s) (hx : x < rasterW s)
    (hy' : y' < rasterH s) (hx' : x' < rasterW s) (h : ibufIndex s z y x = ibufIndex s z' y' x') :
    z = z' ∧ y = y' ∧ x = x' := by
  obtain ⟨hzy, hxx⟩ := eq_of_mul_add_eq hx hx' h
  obtain ⟨hzz, hyy⟩ := eq_of_mul_add_eq hy hy' hzy
  exact ⟨hzz, hyy, hxx⟩

/-! ### A run in progress -/

/-- SEQ says that sample (z, y, x) is in DST. -/
def Seq.Written (q : Seq) (z y x : Nat) : Prop := q.pass ≠ .sep1 ∧ q.Stored z y x

/-- SEQ says that sample (z, y, x) is in IBUF. -/
def Seq.Buffered (q : Seq) (z y x : Nat) : Prop := q.pass = .sep2 ∨ (q.pass = .sep1 ∧ q.Stored z y x)

/-- `u` runs, with SEQ `q`, the command that began to run in `s` and whose last pass is `p`: what SEQ says is stored is
stored, and every ACC is that of the closed form. -/
structure Tracks (s : State) (t : ElemType) (p : Pass) (u : State) (q : Seq) : Prop where
  launch : SameLaunch s u
  status : u.status = s.status
  seq : u.seq = some q
  noHazard : u.hazard = Hazard.none
  last : lastPass q.pass = p
  mem : HoldsSamples s t (passResult s t p) q.Written u.mem
  ibuf : ∀ z y x, z < s.src.z.toNat → y < rasterH s → x < rasterW s → q.Buffered z y x →
    cellGet u.ibuf (ibufIndex s z y x) = passResult s t .sep1 z y x
  acc : ∀ l ∈ q.lanes, l.acc = passAcc s t q.pass q.z l.y l.x l.tap

/-- `u` is after the completion of the command that began to run in `s` and whose last pass is `p`. -/
structure Finished (s : State) (t : ElemType) (p : Pass) (u : State) : Prop where
  launch : SameLaunch s u
  completed : CompletedFrom s u
  mem : HoldsSamples s t (passResult s t p) (fun _ _ _ => True) u.mem

/-- The destination is as wide as the source (R223). -/
theorem CommandOk.dstW {s : State} {p : Pass} {t : ElemType} (h : CommandOk s p t) : s.dst.w.toNat = rasterW s :=
  congrArg BitVec.toNat h.shapeW.symm

/-- The destination is as high as the source (R223). -/
theorem CommandOk.dstH {s : State} {p : Pass} {t : ElemType} (h : CommandOk s p t) : s.dst.h.toNat = rasterH s :=
  congrArg BitVec.toNat h.shapeH.symm

/-- After a store a lane that goes on starts its next sample with ACC cleared (R37). -/
theorem afterStore_acc {s : State} {t : ElemType} {w : Nat} {q : Seq} {k : Nat} {l : Lane}
    (h : ∀ m ∈ q.lanes, m.acc = passAcc s t q.pass q.z m.y m.x m.tap) :
    ∀ m ∈ (afterStore w q k l).lanes, m.acc = passAcc s t q.pass q.z m.y m.x m.tap := by
  unfold afterStore
  split
  · exact forall_mem_set h rfl
  · exact fun m hm => h m (List.mem_of_mem_eraseIdx hm)

section Tracks

variable {s u : State} {t : ElemType} {p : Pass} {q : Seq} (h : Tracks s t p u q)
include h

/-- The running command's facts and SEQ's, said of the state in which the command began to run. -/
theorem Tracks.running (hs : u.Inv) (type : cmdType s = some t) :
    CommandOk s q.pass t ∧ SeqOk s q ∧ cellsWf u.ibuf = true := by
  obtain ⟨t', hrun, hq⟩ := hs.running h.seq
  cases (h.launch.sameCommand.cmdType_eq.trans type).symm.trans hrun.command.type
  exact ⟨hrun.command.congr h.launch.sameCommand_symm, hq.congr h.launch.sameCommand_symm, hrun.ibufCells⟩

/-- The input that a pass reads is that of the closed form: the source has not changed, and IBUF holds the intermediate
raster (R81, R91). -/
theorem Tracks.passIn_eq (launch : LaunchOk s t) (command : CommandOk s q.pass t) (hq : SeqOk s q) (yy xx : Nat)
    (hy : yy < rasterH s) (hx : xx < rasterW s) :
    passIn u t q.pass q.z yy xx = passInput s t q.pass q.z yy xx := by
  have hband := hq.band
  have hsrc (hz : q.z < s.src.z.toNat) : loadSample u.mem u.src t q.z yy xx = srcBand s t q.z yy xx := by
    rw [h.launch.operands.src]
    exact h.mem.loadSample_src launch hz hy hx
  have hbuf := h.ibuf q.z yy xx
  cases hpass : q.pass <;> simp only [hpass, zproc, Seq.Buffered, true_or, forall_const] at hband hbuf
  · exact hsrc (hband.trans_le command.bands)
  · exact hsrc hband
  · have hz : q.z < s.src.z.toNat := hband.trans_le command.bands
    rw [passIn, ibufSample, h.launch.ibufIndex_eq, hbuf hz hy hx]
    exact valT_passResult_sep1 command.width _ _ _

/-- The run goes on in the same pass with another SEQ that has the same samples stored. -/
theorem Tracks.withSeq (command : CommandOk s q.pass t) {q' : Seq} (pass : q'.pass = q.pass)
    (stored : ∀ z y x, y < rasterH s → x < rasterW s → (q'.Stored z y x ↔ q.Stored z y x))
    (acc : ∀ l ∈ q'.lanes, l.acc = passAcc s t q'.pass q'.z l.y l.x l.tap) :
    Tracks s t p { u with seq := some q' } q' where
  launch := h.launch.trans_host ((sameHostSide_refl u).withSeq _)
  status := h.status
  seq := rfl
  noHazard := h.noHazard
  last := pass ▸ h.last
  mem := h.mem.congr fun z y x _ hy hx => by
    rw [Seq.Written, Seq.Written, pass, stored z y x (command.dstH ▸ hy) (command.dstW ▸ hx)]
  ibuf z y x hz hy hx hbuf := by
    rw [Seq.Buffered, pass, stored z y x hy hx] at hbuf
    exact h.ibuf z y x hz hy hx hbuf
  acc := acc

/-- A sample with all its taps in ACC is the closed form's (R140). -/
theorem Tracks.lanePattern_eq (hq : SeqOk s q) {l : Lane} (hl : l ∈ q.lanes) (tap : tapCount u q.pass ≤ l.tap) :
    lanePattern u t q l = passResult s t q.pass q.z l.y l.x := by
  have htap : l.tap = tapCount s q.pass := by
    rw [h.launch.sameCommand.tapCount_eq] at tap
    exact Nat.le_antisymm (hq.laneColumns l hl).2 tap
  rw [h.launch.lanePattern_eq, h.acc l hl, htap, passResult]

/-- A lane of pass 1 stores its sample to IBUF (R91, R164). -/
theorem Tracks.storeIbuf (hs : u.Inv) (type : cmdType s = some t) {k : Nat} {l : Lane}
    (lane : q.lanes[k]? = some l) (pass : q.pass = .sep1) :
    Tracks s t p
      { u with
        ibuf := cellSet u.ibuf (ibufIndex u q.z l.y l.x) (passResult s t q.pass q.z l.y l.x)
        seq := some (afterStore (rasterW s) q k l) }
      (afterStore (rasterW s) q k l) := by
  obtain ⟨_, hq, hcells⟩ := h.running hs type
  obtain ⟨row, _⟩ := hq.laneRows l (List.mem_of_getElem? lane)
  obtain ⟨column, _⟩ := hq.laneColumns l (List.mem_of_getElem? lane)
  refine
    { launch := ⟨h.launch.operands.trans ⟨rfl, rfl, rfl, rfl, rfl, rfl, rfl, rfl, rfl⟩, h.launch.cmdl⟩
      status := h.status
      seq := rfl
      noHazard := h.noHazard
      last := by rw [afterStore_pass]; exact h.last
      mem := h.mem.congr fun z y x _ _ _ => by simp [Seq.Written, pass]
      ibuf := fun z y x hz hy hx hbuf => ?_
      acc := by rw [afterStore_pass, afterStore_z]; exact afterStore_acc h.acc }
  have hstored : q.Stored z y x ∨ (z = q.z ∧ y = l.y ∧ x = l.x) := by
    rw [← stored_afterStore lane column hx]
    simpa [Seq.Buffered, pass] using hbuf
  rw [cellGet_cellSet hcells, h.launch.ibufIndex_eq, pass]
  split
  · rename_i e
    obtain ⟨rfl, rfl, rfl⟩ := ibufIndex_inj hy hx row column e
    rfl
  · rename_i hne
    rcases hstored with hstored | ⟨rfl, rfl, rfl⟩
    · exact h.ibuf z y x hz hy hx (.inr ⟨pass, hstored⟩)
    · exact absurd rfl hne

/-- A lane of the last pass stores its sample to DST (R78, R82). -/
theorem Tracks.storeMem (launch : LaunchOk s t) (hs : u.Inv) (type : cmdType s = some t) {k : Nat} {l : Lane}
    (lane : q.lanes[k]? = some l) (pass : q.pass ≠ .sep1) :
    Tracks s t p
      { u with
        mem := storeSample u.mem u.dst t q.z l.y l.x (passResult s t q.pass q.z l.y l.x)
        seq := some (afterStore (rasterW s) q k l) }
      (afterStore (rasterW s) q k l) := by
  obtain ⟨command, hq, _⟩ := h.running hs type
  obtain ⟨row, _⟩ := hq.laneRows l (List.mem_of_getElem? lane)
  obtain ⟨column, _⟩ := hq.laneColumns l (List.mem_of_getElem? lane)
  have hlast : q.pass = p := (lastPass_of_ne pass).symm.trans h.last
  have hband : q.z < s.dst.z.toNat := zproc_of_ne pass s ▸ hq.band
  exact
    { launch := ⟨h.launch.operands.trans ⟨rfl, rfl, rfl, rfl, rfl, rfl, rfl, rfl, rfl⟩, h.launch.cmdl⟩
      status := h.status
      seq := rfl
      noHazard := h.noHazard
      last := by rw [afterStore_pass]; exact h.last
      mem := by
        rw [h.launch.operands.dst, hlast]
        refine h.mem.store hs.memory launch.2 hband (command.dstH ▸ row) (command.dstW ▸ column) fun z y x hx => ?_
        rw [Seq.Written, Seq.Written, afterStore_pass, stored_afterStore lane column (command.dstW ▸ hx)]
        simp [pass]
      ibuf := fun z y x hz hy hx hbuf => h.ibuf z y x hz hy hx (by simpa [Seq.Buffered, pass] using hbuf)
      acc := by rw [afterStore_pass, afterStore_z]; exact afterStore_acc h.acc }

/-- A lane stores its sample, and the closed form's sample is stored. -/
theorem Tracks.store (launch : LaunchOk s t) (hs : u.Inv) (type : cmdType s = some t) {k : Nat} {l : Lane}
    (lane : q.lanes[k]? = some l) (tap : tapCount u q.pass ≤ l.tap) :
    Tracks s t p
      { passOut u t q.pass q.z l.y l.x (lanePattern u t q l) with seq := some (afterStore (rasterW u) q k l) }
      (afterStore (rasterW u) q k l) := by
  obtain ⟨_, hq, _⟩ := h.running hs type
  rw [h.lanePattern_eq hq (List.mem_of_getElem? lane) tap, h.launch.sameCommand.rasterW_eq]
  rcases passOut_cases u t q.pass q.z l.y l.x (passResult s t q.pass q.z l.y l.x) with
    ⟨pass, e⟩ | ⟨pass, _, e⟩ | ⟨_, spoiled, _⟩
  · rw [e]
    exact h.storeIbuf hs type lane pass
  · rw [e]
    exact h.storeMem launch hs type lane pass
  · simp [h.noHazard, Hazard.none] at spoiled

/-- A lane handles its next tap, as the closed form does. -/
theorem Tracks.tap (launch : LaunchOk s t) (hs : u.Inv) (type : cmdType s = some t) {k : Nat} {l : Lane}
    (lane : q.lanes[k]? = some l) :
    Tracks s t p
      { u with seq := some { q with lanes := q.lanes.set k { l with tap := l.tap + 1, acc := laneTap u t q l } } }
      { q with lanes := q.lanes.set k { l with tap := l.tap + 1, acc := laneTap u t q l } } := by
  obtain ⟨command, hq, _⟩ := h.running hs type
  have stored {z y x : Nat} :=
    stored_setLane (l' := { l with tap := l.tap + 1, acc := laneTap u t q l }) (z := z) (y := y) (x := x) lane rfl rfl
  refine h.withSeq command rfl (fun z y x _ _ => stored) (forall_mem_set h.acc ?_)
  calc laneTap u t q l
      = tapStep s.params.accW (rasterW s) (rasterH s) (viewW s q.pass) (viewH s q.pass) (viewCoef s q.pass)
          (passInput s t q.pass q.z) l.x l.y l.acc l.tap :=
        h.launch.laneTap_eq l (h.passIn_eq launch command hq)
    _ = passAcc s t q.pass q.z l.y l.x (l.tap + 1) := by
        rw [passAcc_succ, h.acc l (List.mem_of_getElem? lane)]

/-- Completion with every destination sample stored (R148). -/
theorem Tracks.finished
    (all : ∀ z y x, z < s.dst.z.toNat → y < s.dst.h.toNat → x < s.dst.w.toNat → q.Written z y x) :
    Finished s t p (complete u) where
  launch := h.launch.trans_host (complete_sameHostSide u)
  completed := (complete_completedFrom u).congr (by rw [h.status])
  mem := by
    rw [complete_of_none h.noHazard]
    exact h.mem.congr fun z y x hz hy hx => by simp [all z y x hz hy hx]

/-- Pass 2 begins, over the intermediate raster that pass 1 has stored (R163). -/
theorem Tracks.beginSep2 (pass : q.pass = .sep1)
    (all : ∀ z y x, z < s.src.z.toNat → y < rasterH s → q.Stored z y x) :
    Tracks s t p { u with seq := some (freshSeq .sep2) } (freshSeq .sep2) where
  launch := h.launch.trans_host ((sameHostSide_refl u).withSeq _)
  status := h.status
  seq := rfl
  noHazard := h.noHazard
  last := by
    rw [← h.last, pass]
    rfl
  mem := h.mem.congr fun z y x _ _ _ => by simp [Seq.Written, pass, not_stored_freshSeq]
  ibuf z y x hz hy hx _ := h.ibuf z y x hz hy hx (.inr ⟨pass, all z y x hz hy⟩)
  acc := by simp [freshSeq]

/-- The end of a pass completes the command with its result stored, or begins pass 2 (R148, R163). -/
theorem Tracks.endPass (hs : u.Inv) (type : cmdType s = some t) (done : bandDone u q = true)
    (last : zproc u q.pass ≤ q.z + 1) :
    (∃ q', Tracks s t p (finishPass q.pass u) q') ∨ Finished s t p (finishPass q.pass u) := by
  obtain ⟨command, _, _⟩ := h.running hs type
  rw [h.launch.sameCommand.zproc_eq] at last
  have stored {z y x : Nat} (hz : z < zproc s q.pass) (hy : y < rasterH s) : q.Stored z y x :=
    stored_of_bandDone done (hz.trans_le last) (h.launch.sameCommand.rasterH_eq ▸ hy)
  rcases finishPass_cases q.pass u with ⟨pass, e⟩ | ⟨pass, e⟩ <;> rw [e]
  · refine .inr (h.finished fun z y x hz hy hx => ⟨pass, stored ?_ (command.dstH ▸ hy)⟩)
    cases hpass : q.pass <;> simp_all [zproc]
  · rcases startPass_cases .sep2 u with ⟨_, e⟩ | ⟨empty, e⟩ | ⟨hp, _⟩
    · rw [e]
      exact .inl ⟨_, h.beginSep2 pass fun z y x hz hy => stored (by simpa [pass, zproc] using hz) hy⟩
    · rw [e]
      have common : CommonPreconditions s t := ⟨command.width, command.shapeW, command.shapeH, command.bands⟩
      have empty' : passEmpty s .sep2 = true := by
        rw [← empty, passEmpty, passEmpty, h.launch.sameCommand.rasterW_eq, h.launch.sameCommand.rasterH_eq,
          h.launch.sameCommand.zproc_eq]
      exact .inr (h.finished fun z y x hz hy hx => (no_sample_of_passEmpty common empty' hz hy hx).elim)
    · cases hp

/-- Every step of the engine stores what the closed form says, and completes with the whole result (R142, R171). -/
theorem Tracks.engine {u' : State} (launch : LaunchOk s t) (hs : u.Inv) (type : cmdType s = some t)
    (effect : EngineEffect u u') : (∃ q', Tracks s t p u' q') ∨ Finished s t p u' := by
  obtain ⟨command, _, _⟩ := h.running hs type
  have type' : cmdType u = some t := h.launch.sameCommand.cmdType_eq.trans type
  cases effect with
  | idle => exact .inl ⟨q, h⟩
  | took q₁ y run seq row lane free =>
    cases h.seq.symm.trans seq
    exact .inl ⟨_, h.withSeq command rfl (fun z y x _ _ => stored_take)
      (List.forall_mem_append.2 ⟨h.acc, List.forall_mem_singleton.2 rfl⟩)⟩
  | tapped q₁ t₁ k l run seq type₁ lane tap =>
    cases h.seq.symm.trans seq
    cases type'.symm.trans type₁
    exact .inl ⟨_, h.tap launch hs type lane⟩
  | stored q₁ t₁ k l run seq type₁ lane tap =>
    cases h.seq.symm.trans seq
    cases type'.symm.trans type₁
    exact .inl ⟨_, h.store launch hs type lane tap⟩
  | nextBand q₁ run seq done more =>
    cases h.seq.symm.trans seq
    refine .inl ⟨_, h.withSeq command rfl (fun z y x hy _ => ?_) (by simp)⟩
    rw [stored_emptyBand]
    refine ⟨fun hz => stored_of_bandDone done hz (h.launch.sameCommand.rasterH_eq ▸ hy), ?_⟩
    rintro (hz | ⟨rfl, _⟩) <;> omega
  | endPass q₁ run seq done last =>
    cases h.seq.symm.trans seq
    exact h.endPass hs type done last

/-- A run in progress shows BUSY (R39). -/
theorem Tracks.busy (hs : u.Inv) : u.status.busy = true := by
  simp [hs.status.2, h.seq]

theorem Tracks.withHost (w : Word) (rest : List Move) : Tracks s t p { u with rdata := w, moves := rest } q :=
  ⟨h.launch.withHost w rest, h.status, h.seq, h.noHazard, h.last, h.mem, h.ibuf, h.acc⟩

end Tracks

theorem Finished.withHost {s u : State} {t : ElemType} {p : Pass} (h : Finished s t p u) (w : Word)
    (rest : List Move) : Finished s t p { u with rdata := w, moves := rest } :=
  ⟨h.launch.withHost w rest, ⟨h.completed.status, h.completed.seq, h.completed.ibuf⟩, h.mem⟩

/-! ### Runs that nothing disturbs -/

/-- Where the moves are harmless, a step is one of the engine, or changes nothing but the model's fields for the host
(R83, R201). -/
theorem step_of_harmless {s u : State} (harmless : s.moves.all Move.harmless = true) (h : step s = .next u) :
    u.moves.all Move.harmless = true ∧
      ((∃ w rest, u = { s with rdata := w, moves := rest }) ∨ ∃ m rest, u = engineStep m { s with moves := rest }) := by
  have engine (m : EngineMove) (rest : List Move) (hrest : rest.all Move.harmless = true) :
      (engineStep m { s with moves := rest }).moves.all Move.harmless = true := by
    rw [(engineStep_effect m { s with moves := rest }).sameHostSide.moves]
    exact hrest
  cases hm : s.moves with
  | nil =>
    rw [step_nil hm, unattended] at h
    cases h
    split
    · exact ⟨engine _ _ harmless, .inr ⟨_, s.moves, rfl⟩⟩
    · exact ⟨harmless, .inl ⟨s.rdata, s.moves, rfl⟩⟩
  | cons m rest =>
    rw [step_cons hm] at h
    obtain ⟨hmove, hrest⟩ : m.harmless = true ∧ rest.all Move.harmless = true := by
      simpa [hm] using harmless
    cases m with
    | rd off size =>
      rcases portRead_cases off size { s with moves := rest } with ⟨_, e⟩ | ⟨_, e⟩ <;> cases e.symm.trans h
      exact ⟨hrest, .inl ⟨_, rest, rfl⟩⟩
    | await =>
      cases h
      unfold pollStatus
      split
      · exact ⟨engine _ _ harmless, .inr ⟨_, s.moves, rfl⟩⟩
      · exact ⟨hrest, .inl ⟨_, rest, rfl⟩⟩
    | engine m =>
      cases h
      exact ⟨engine m rest hrest, .inr ⟨m, rest, rfl⟩⟩
    | wr off size v => cases hmove
    | memWrite a b => cases hmove
    | hardwareReset => cases hmove

/-- `u` is reached by harmless steps from `s`, in which the command with last pass `p` began to run or completed at
once. -/
structure OnSchedule (s : State) (t : ElemType) (p : Pass) (u : State) : Prop where
  inv : u.Inv
  harmless : u.moves.all Move.harmless = true
  progress : (∃ q, Tracks s t p u q) ∨ Finished s t p u

theorem OnSchedule.step {s u u' : State} {t : ElemType} {p : Pass} (h : OnSchedule s t p u) (launch : LaunchOk s t)
    (type : cmdType s = some t) (e : step u = .next u') : OnSchedule s t p u' := by
  have inv := stepKeepsInvariant u u' h.inv e
  obtain ⟨harmless, heffect⟩ := step_of_harmless h.harmless e
  refine ⟨inv, harmless, ?_⟩
  rcases heffect with ⟨w, rest, rfl⟩ | ⟨m, rest, rfl⟩
  · exact h.progress.imp (fun ⟨q, hq⟩ => ⟨q, hq.withHost w rest⟩) fun done => done.withHost w rest
  · rcases h.progress with ⟨q, hq⟩ | done
    · exact (hq.withHost u.rdata rest).engine launch (h.inv.withHost u.rdata rest) type (engineStep_effect m _)
    · have idle : u.status.busy = false := by rw [done.completed.status]
      rw [engineStep_of_not_busy (s := { u with moves := rest }) idle]
      exact .inr (done.withHost u.rdata rest)

theorem Reaches.onSchedule {s u : State} {t : ElemType} {p : Pass} {n : Nat} (h : Reaches s n u)
    (start : OnSchedule s t p s) (launch : LaunchOk s t) (type : cmdType s = some t) : OnSchedule s t p u :=
  h.induction (fun _ _ hv e => hv.step launch type e) start

/-! ### The state in which the command is issued -/

/-- The closed form of a pass reads the operand registers, CMDL and raster memory. -/
theorem passResult_congr {s u : State} (same : SameLaunch s u) (mem : u.mem = s.mem) (t : ElemType) (p : Pass) :
    passResult u t p = passResult s t p := by
  have hsrc : srcBand u t = srcBand s t := by
    funext z y x
    rw [srcBand, srcBand, mem, same.operands.src]
  have hmid : midSample u t = midSample s t := by
    funext z y x
    simp only [midSample, rowSum, hsrc, same.operands.params, same.operands.kaDim, same.sameCommand.rasterW_eq,
      same.sameCommand.rasterH_eq, same.bankCoef_eq]
  have hinput : passInput u t p = passInput s t p := by
    cases p
    · exact hsrc
    · exact hsrc
    · exact hmid
  funext z y x
  simp only [passResult, passAcc_tapCount, hinput, same.operands.params, same.sameCommand.rasterW_eq,
    same.sameCommand.rasterH_eq, same.viewW_eq, same.viewH_eq, same.viewCoef_eq, same.passRshift_eq,
    same.passOffset_eq]

/-- RSHIFT of a well-formed command survives its field (R106). -/
theorem rshift_toNat {r : Nat} (h : r < 64) : (BitVec.ofNat 6 r).toNat = r := by
  rw [BitVec.toNat_ofNat]
  exact Nat.mod_eq_of_lt h

/-- The last pass of an accepted command, its word being latched in CMDL, gives each sample the pattern of R142 or
R171. -/
theorem passResult_eq_storedPattern {s : State} {i : Instr} {t : ElemType} (h : Accepts i s t)
    (hi : i.wellFormed = true) :
    passResult { s with cmdl := (encode i).setWidth 14 } t (lastPass (firstPass i)) = storedPattern i s t := by
  funext z y x
  rw [passResult, passAcc_tapCount]
  cases i with
  | nop => exact h.elim
  | conv e k r =>
    have hksel : cmdKsel { s with cmdl := (encode (.conv e k r)).setWidth 14 } = k := by simp [cmdKsel, encode]
    have hrshift : cmdRshift { s with cmdl := (encode (.conv e k r)).setWidth 14 } = r := by
      simpa [cmdRshift, encode] using rshift_toNat (of_decide_eq_true hi)
    have hcoef : viewCoef { s with cmdl := (encode (.conv e k r)).setWidth 14 } .single = bankCoef s k := by
      funext ky kx
      simp only [viewCoef, hksel]
      rfl
    simp only [firstPass, lastPass, viewW, viewH, hcoef, passRshift, hrshift, hksel]
    rfl
  | convsep e r =>
    have hrshift : cmdRshift { s with cmdl := (encode (.convsep e r)).setWidth 14 } = r := by
      simpa [cmdRshift, encode] using rshift_toNat (of_decide_eq_true hi)
    simp only [firstPass, lastPass, passRshift, hrshift]
    rfl

/-- `v` is left by the acceptance of command `i` in `s`: the operand registers and raster memory are as they were, and
the rest of a run's state is `v`'s. -/
structure Issued (s : State) (i : Instr) (v : State) : Prop where
  operands : SameOperands s v
  cmdl : v.cmdl = (encode i).setWidth 14
  mem : v.mem = s.mem
  status : { v.status with busy := false, done := true } = { s.status with busy := false, done := true }

theorem Issued.sameLaunch {s v : State} {i : Instr} (h : Issued s i v) :
    SameLaunch { s with cmdl := (encode i).setWidth 14 } v := by
  obtain ⟨⟨h1, h2, h3, h4, h5, h6, h7, h8, h9⟩, cmdl, _, _⟩ := h
  exact ⟨⟨h1, h2, h3, h4, h5, h6, h7, h8, h9⟩, cmdl⟩

/-- The part of the result that memory holds, said of the state in which the command was issued. -/
theorem Issued.holdsSamples {s v : State} {i : Instr} (h : Issued s i v) {t : ElemType}
    {pattern : Nat → Nat → Nat → BitVec 32} {stored : Nat → Nat → Nat → Prop} {m : List Host.Cell}
    (hm : HoldsSamples v t pattern stored m) : HoldsSamples s t pattern stored m := by
  obtain ⟨final, old, outside⟩ := hm
  rw [h.operands.dst] at final old outside
  rw [h.mem] at old outside
  exact ⟨final, old, outside⟩

theorem firstPass_ne_sep2 (i : Instr) : firstPass i ≠ .sep2 := by
  cases i <;> simp [firstPass]

/-- A command whose first pass has just begun has stored nothing. -/
theorem tracks_start {v : State} {p : Pass} (t : ElemType) (seq : v.seq = some (freshSeq p))
    (noHazard : v.hazard = Hazard.none) (hp : p ≠ .sep2) : Tracks v t (lastPass p) v (freshSeq p) where
  launch := sameLaunch_refl v
  status := rfl
  seq := seq
  noHazard := noHazard
  last := rfl
  mem := holdsSamples_none fun z y x hw => not_stored_freshSeq p z y x hw.2
  ibuf z y x _ _ _ hbuf := by
    rcases hbuf with hp' | ⟨_, hs⟩
    · exact absurd hp' hp
    · exact absurd hs (not_stored_freshSeq p z y x)
  acc := by simp [freshSeq]

/-- A command over an empty raster has completed with its result, which has no sample (R149). -/
theorem finished_of_passEmpty {v : State} {t : ElemType} {p : Pass} (p' : Pass) (common : CommonPreconditions v t)
    (empty : passEmpty v p = true) (completed : CompletedFrom v v) : Finished v t p' v where
  launch := sameLaunch_refl v
  completed := completed
  mem := (holdsSamples_none (stored := fun _ _ _ => False) fun _ _ _ => id).congr fun _ _ _ hz hy hx =>
    (no_sample_of_passEmpty common empty hz hy hx).elim

/-- An accepted command is under way, with nothing stored, or has completed with nothing to store (R149, R229). -/
theorem Accepts.start {s : State} {i : Instr} {t : ElemType} (h : Accepts i s t) (hs : s.Inv) (idle : s.Idle)
    (launch : LaunchOk s t) (harmless : s.moves.all Move.harmless = true) :
    ∃ v, exec i s = .next v ∧ Issued s i v ∧ OnSchedule v t (lastPass (firstPass i)) v := by
  have inv := h.inv hs idle
  have hexec := h.exec_eq idle
  rcases accept_cases (p := firstPass i) h.type h.common with ⟨_, e⟩ | ⟨empty, e⟩ <;> rw [e] at inv hexec
  · have hazard : (latchCommand ((encode i).setWidth 14) (clearDone s)).hazard = Hazard.none :=
      (latchCommand_hazard h.type).trans (launchHazard_of_ok launch)
    refine ⟨_, hexec, ⟨⟨rfl, rfl, rfl, rfl, rfl, rfl, rfl, rfl, rfl⟩, rfl, rfl, rfl⟩, inv, harmless, .inl ?_⟩
    exact ⟨freshSeq (firstPass i), tracks_start t rfl hazard (firstPass_ne_sep2 i)⟩
  · refine ⟨_, hexec, ⟨⟨rfl, rfl, rfl, rfl, rfl, rfl, rfl, rfl, rfl⟩, rfl, rfl, rfl⟩, inv, harmless, .inr ?_⟩
    exact finished_of_passEmpty (p := firstPass i) _ h.common empty ⟨rfl, rfl, rfl⟩

/-- Settles O19: every harmless step keeps what the run has stored in step with SEQ, and a run that has completed has
stored every sample. -/
theorem resultIndependentOfSchedule : Obligations.ResultIndependentOfSchedule := by
  unfold Obligations.ResultIndependentOfSchedule
  intro s i t v n u hs idle hi h launch harmless hexec hreach
  obtain ⟨v', hexec', issued, start⟩ := h.start hs idle launch harmless
  cases hexec.symm.trans hexec'
  have type : cmdType v = some t := issued.sameLaunch.sameCommand.cmdType_eq.trans h.type
  have launch' : LaunchOk v t := by
    simpa only [LaunchOk, issued.operands.src, issued.operands.dst] using launch
  have hpattern : passResult v t (lastPass (firstPass i)) = storedPattern i s t :=
    (passResult_congr issued.sameLaunch issued.mem t _).trans (passResult_eq_storedPattern h hi)
  obtain ⟨inv, _, ⟨q, hq⟩ | done⟩ := hreach.onSchedule start launch' type
  · have hmem := issued.holdsSamples (hpattern ▸ hq.mem)
    refine ⟨hmem.oldOrNew, hmem.outside, issued.operands.trans hq.launch.operands, fun hbusy => ?_⟩
    cases (hq.busy inv).symm.trans hbusy
  · have hmem := issued.holdsSamples (hpattern ▸ done.mem)
    refine ⟨hmem.oldOrNew, hmem.outside, issued.operands.trans done.launch.operands, fun _ =>
      ⟨done.completed.congr issued.status, hmem.holdsResult fun z y x => ?_⟩⟩
    rw [← hpattern]
    exact passResult_toNat_lt _ (issued.operands.params ▸ h.common.1) z y x

end Sys2Proof.Machine
end

section
/-! SUPPORT. The command word as its five fields, the mask tests of the opcode map on them, and what the decoder can
answer, said once (`decode_cases`). -/

namespace Sys2Proof

/-! ### A word is its fields (R101) -/

/-- The five fields, side by side, are the word. -/
theorem append_fields (w : Word) : reservedBits w ++ rshiftBits w ++ kselBit w ++ etypeBits w ++ opField w = w := by
  unfold reservedBits rshiftBits kselBit etypeBits opField
  rw [BitVec.extractLsb'_append_extractLsb'_eq_extractLsb' (rfl : 14 = 8 + 6),
    BitVec.extractLsb'_append_extractLsb'_eq_extractLsb' (rfl : 8 = 7 + 1),
    BitVec.extractLsb'_append_extractLsb'_eq_extractLsb' (rfl : 7 = 4 + 3),
    BitVec.extractLsb'_append_extractLsb'_eq_extractLsb' (rfl : 4 = 0 + 4)]
  exact BitVec.extractLsb'_eq_self

theorem word_eq_iff_fields {w v : Word} :
    w = v ↔ reservedBits w = reservedBits v ∧ rshiftBits w = rshiftBits v ∧ kselBit w = kselBit v ∧
      etypeBits w = etypeBits v ∧ opField w = opField v := by
  constructor
  · rintro rfl
    exact ⟨rfl, rfl, rfl, rfl, rfl⟩
  · rintro ⟨hreserved, hrshift, hksel, hetype, hop⟩
    rw [← append_fields w, ← append_fields v, hreserved, hrshift, hksel, hetype, hop]

/-- A word whose reserved bits are 0 is assembled from its other fields. -/
theorem assembleWord_fields {w : Word} (h : reservedBits w = 0#18) :
    assembleWord (opField w) (etypeBits w) (kselBit w) (rshiftBits w) = w :=
  word_eq_iff_fields.2 (by simp [h])

/-- The ETYPE field survives its meaning (R103). -/
@[simp] theorem etypeField_etypeOfField : ∀ f : BitVec 3, etypeField (etypeOfField f) = f := by decide

/-- The KSEL field survives its meaning (R105). -/
@[simp] theorem bankField_bankOfField : ∀ f : BitVec 1, bankField (bankOfField f) = f := by decide

/-- KSEL is bit 7 (R101). -/
theorem getLsbD_seven_iff {w : Word} : w.getLsbD 7 = true ↔ kselBit w ≠ 0#1 := by
  rw [BitVec.getLsbD_eq_extractLsb', ← kselBit]
  rcases BitVec.eq_zero_or_eq_one (kselBit w) with h | h <;> simp [h]

/-! ### The masks of the opcode map (R113) -/

/-- The mask of the NOP and CONV rows keeps the reserved bits and OP. -/
theorem and_opMask_eq_iff (w : Word) (op : BitVec 4) :
    w &&& 0xFFFFC00F#32 = assembleWord op 0 0 0 ↔ reservedBits w = 0#18 ∧ opField w = op := by
  have hreserved : reservedBits (w &&& 0xFFFFC00F#32) = reservedBits w :=
    BitVec.extractLsb'_and.trans BitVec.and_allOnes
  have hop : opField (w &&& 0xFFFFC00F#32) = opField w := BitVec.extractLsb'_and.trans BitVec.and_allOnes
  have hrshift : rshiftBits (w &&& 0xFFFFC00F#32) = 0 := BitVec.extractLsb'_and.trans BitVec.and_zero
  have hksel : kselBit (w &&& 0xFFFFC00F#32) = 0 := BitVec.extractLsb'_and.trans BitVec.and_zero
  have hetype : etypeBits (w &&& 0xFFFFC00F#32) = 0 := BitVec.extractLsb'_and.trans BitVec.and_zero
  simp [word_eq_iff_fields, hreserved, hop, hrshift, hksel, hetype]

/-- The mask of the CONVSEP row keeps KSEL too. -/
theorem and_opKselMask_eq_iff (w : Word) (op : BitVec 4) (k : BitVec 1) :
    w &&& 0xFFFFC08F#32 = assembleWord op 0 k 0 ↔ reservedBits w = 0#18 ∧ opField w = op ∧ kselBit w = k := by
  have hreserved : reservedBits (w &&& 0xFFFFC08F#32) = reservedBits w :=
    BitVec.extractLsb'_and.trans BitVec.and_allOnes
  have hop : opField (w &&& 0xFFFFC08F#32) = opField w := BitVec.extractLsb'_and.trans BitVec.and_allOnes
  have hrshift : rshiftBits (w &&& 0xFFFFC08F#32) = 0 := BitVec.extractLsb'_and.trans BitVec.and_zero
  have hksel : kselBit (w &&& 0xFFFFC08F#32) = kselBit w := BitVec.extractLsb'_and.trans BitVec.and_allOnes
  have hetype : etypeBits (w &&& 0xFFFFC08F#32) = 0 := BitVec.extractLsb'_and.trans BitVec.and_zero
  simp [word_eq_iff_fields, hreserved, hop, hrshift, hksel, hetype, and_comm]

/-! ### The decoder, row by row (R102) -/

section Rows

variable {w : Word}

theorem decode_of_nop (hr : reservedBits w = 0#18) (hop : opField w = 0#4) : decode w = .command .nop := by
  simp [decode, hr, hop]

theorem decode_of_conv (hr : reservedBits w = 0#18) (hop : opField w = 1#4) :
    decode w = .command (.conv (etypeOfField (etypeBits w)) (bankOfField (kselBit w)) (rshiftBits w).toNat) := by
  simp [decode, hr, hop]

theorem decode_of_convsep (hr : reservedBits w = 0#18) (hop : opField w = 2#4) (hksel : kselBit w = 0#1) :
    decode w = .command (.convsep (etypeOfField (etypeBits w)) (rshiftBits w).toNat) := by
  simp [decode, hr, hop, hksel]

/-- The words of R107. -/
def IllegalFields (w : Word) : Prop :=
  reservedBits w ≠ 0#18 ∨ 3 ≤ (opField w).toNat ∨ (opField w = 2#4 ∧ kselBit w ≠ 0#1)

theorem decode_of_illegalFields (h : IllegalFields w) : ∃ why, decode w = .illegal why := by
  by_cases hr : reservedBits w = 0#18
  · rcases h with h | hop | ⟨hop, hksel⟩
    · exact absurd hr h
    · refine ⟨.illegalOp, ?_⟩
      unfold decode
      rw [if_neg (not_not.2 hr)]
      split
      case h_4 => rfl
      all_goals omega
    · exact ⟨.convsepWithKsel, by simp [decode, hr, hop, hksel]⟩
  · exact ⟨.reservedBits, if_pos hr⟩

/-- A word is in one of the three rows, or is one of R107. -/
theorem fields_cases (w : Word) :
    (reservedBits w = 0#18 ∧ opField w = 0#4) ∨ (reservedBits w = 0#18 ∧ opField w = 1#4) ∨
      (reservedBits w = 0#18 ∧ opField w = 2#4 ∧ kselBit w = 0#1) ∨ IllegalFields w := by
  have hop : opField w = 0#4 ∨ opField w = 1#4 ∨ opField w = 2#4 ∨ 3 ≤ (opField w).toNat := by bv_omega
  unfold IllegalFields
  tauto

/-- Everything the decoder can answer (R102, R107, R113). -/
theorem decode_cases (w : Word) :
    (reservedBits w = 0#18 ∧ opField w = 0#4 ∧ decode w = .command .nop) ∨
      (reservedBits w = 0#18 ∧ opField w = 1#4 ∧
        decode w = .command (.conv (etypeOfField (etypeBits w)) (bankOfField (kselBit w)) (rshiftBits w).toNat)) ∨
      (reservedBits w = 0#18 ∧ opField w = 2#4 ∧ kselBit w = 0#1 ∧
        decode w = .command (.convsep (etypeOfField (etypeBits w)) (rshiftBits w).toNat)) ∨
      (IllegalFields w ∧ ∃ why, decode w = .illegal why) := by
  rcases fields_cases w with ⟨hr, hop⟩ | ⟨hr, hop⟩ | ⟨hr, hop, hksel⟩ | h
  · exact .inl ⟨hr, hop, decode_of_nop hr hop⟩
  · exact .inr (.inl ⟨hr, hop, decode_of_conv hr hop⟩)
  · exact .inr (.inr (.inl ⟨hr, hop, hksel, decode_of_convsep hr hop hksel⟩))
  · exact .inr (.inr (.inr ⟨h, decode_of_illegalFields h⟩))

theorem decode_eq_nop_iff : decode w = .command .nop ↔ reservedBits w = 0#18 ∧ opField w = 0#4 := by
  refine ⟨fun h => ?_, fun ⟨hr, hop⟩ => decode_of_nop hr hop⟩
  rcases decode_cases w with ⟨hr, hop, _⟩ | ⟨_, _, e⟩ | ⟨_, _, _, e⟩ | ⟨_, _, e⟩
  · exact ⟨hr, hop⟩
  all_goals simp [e] at h

theorem decode_eq_illegal_iff : (∃ why, decode w = .illegal why) ↔ IllegalFields w := by
  refine ⟨fun ⟨why, h⟩ => ?_, decode_of_illegalFields⟩
  rcases decode_cases w with ⟨_, _, e⟩ | ⟨_, _, e⟩ | ⟨_, _, _, e⟩ | ⟨hw, _⟩
  case inr.inr.inr => exact hw
  all_goals simp [e] at h

end Rows

/-! ### The word in bytes (R76) -/

theorem decodeBytes_bytesOfWord (w : Word) : decodeBytes (bytesOfWord w) = decode w := by
  have hword : wordOfBytes (w.extractLsb' 0 8) (w.extractLsb' 8 8) (w.extractLsb' 16 8) (w.extractLsb' 24 8) = w := by
    unfold wordOfBytes
    rw [BitVec.extractLsb'_append_extractLsb'_eq_extractLsb' (rfl : 24 = 16 + 8),
      BitVec.extractLsb'_append_extractLsb'_eq_extractLsb' (rfl : 16 = 8 + 8),
      BitVec.extractLsb'_append_extractLsb'_eq_extractLsb' (rfl : 8 = 0 + 8)]
    exact BitVec.extractLsb'_eq_self
  exact congrArg decode hword

theorem tableWord_of_lt {nbits n : Nat} (h : n < 2 ^ nbits) : tableWord nbits n = BitVec.ofNat 32 n := by
  rw [tableWord, Nat.mod_eq_of_lt h]

end Sys2Proof

namespace Sys2Proof.Machine

/-! ### Refusal in IDLE (R205, R230) -/

theorem raise_clearDone_of_idle {s : State} (idle : s.Idle) (c : Cause) :
    raise c (clearDone s) = refusedWith (causeCode c) s := by
  simp [raise, clearDone, refusedWith, idle.1]

theorem issueIllegal_of_idle {s : State} (idle : s.Idle) : issueIllegal s = refusedWith 7 s := by
  rcases issueIllegal_cases s with ⟨h, _⟩ | ⟨_, e⟩
  · simp [idle.1, idle.2] at h
  · exact e.trans (raise_clearDone_of_idle idle .illegalCmd)

theorem issue_of_violation {s : State} (idle : s.Idle) (i : Instr) (p : Pass) (c : Cause) :
    issue i p (some c) s = refusedWith (causeCode c) s := by
  rw [← raise_clearDone_of_idle idle]
  simp [issue, issueAllowed, idle.1, idle.2]

/-- A CONV whose check fails in IDLE is refused with the cause of the check (R130, R205). -/
theorem exec_conv_of_violation {s : State} {e : EType} {c : Cause} (idle : s.Idle) (h : checkConv e s = some c)
    (k : Bank) (r : Nat) : exec (.conv e k r) s = .next (refusedWith (causeCode c) s) := by
  rw [← issue_of_violation idle (.conv e k r) .single c, ← h]
  rfl

/-! ### Assembling commands (R114, R115) -/

theorem cmdMove_of_wellFormed {i : Instr} (h : i.wellFormed = true) :
    cmdMove i = some [.wr 0x014 4 (encode i)] := if_pos h

theorem cmdMove_of_not_wellFormed {i : Instr} (h : i.wellFormed = false) : cmdMove i = none := by
  simp [cmdMove, h]

theorem ksetMove_of_out_of_range {v : Int} (h : v < -32768 ∨ 32767 < v) (k : Bank) (x y : Nat) :
    ksetMove k x y v = none :=
  if_neg (by omega)

end Sys2Proof.Machine
end

section
/-! Obligations O1 to O7 and O60: the decoder and the encoder against each other and against the opcode map, the worked
encodings, and the assembler's pseudo-instructions. -/

namespace Sys2Proof.Machine

/-- Settles O1: each field of the assembled word reads back, so the decoder takes the command's own row. -/
theorem decodeOfEncode : Obligations.DecodeOfEncode := by
  unfold Obligations.DecodeOfEncode
  intro i hi
  cases i with
  | nop => exact decode_of_nop rfl rfl
  | conv e k r =>
    have hr : (BitVec.ofNat 6 r).toNat = r := rshift_toNat (of_decide_eq_true hi)
    have hrow : decode (encode (.conv e k r)) = _ :=
      decode_of_conv (reservedBits_assembleWord _ _ _ _) (opField_assembleWord _ _ _ _)
    simpa [encode, hr] using hrow
  | convsep e r =>
    have hr : (BitVec.ofNat 6 r).toNat = r := rshift_toNat (of_decide_eq_true hi)
    have hrow : decode (encode (.convsep e r)) = _ :=
      decode_of_convsep (reservedBits_assembleWord _ _ _ _) (opField_assembleWord _ _ _ _)
        (kselBit_assembleWord _ _ _ _)
    simpa [encode, hr] using hrow

/-- Settles O2: in the row of CONV or CONVSEP every field of the word is in the command or is fixed by the row. -/
theorem encodeOfDecode : Obligations.EncodeOfDecode := by
  unfold Obligations.EncodeOfDecode
  intro w i h
  have hrshift : decide ((rshiftBits w).toNat < 64) = true := decide_eq_true (rshiftBits w).isLt
  rcases decode_cases w with ⟨_, _, e⟩ | ⟨hr, hop, e⟩ | ⟨hr, hop, hksel, e⟩ | ⟨_, _, e⟩ <;> cases e.symm.trans h
  · exact ⟨rfl, fun hne => absurd rfl hne⟩
  · exact ⟨hrshift, fun _ => by simpa [encode, hop] using assembleWord_fields hr⟩
  · exact ⟨hrshift, fun _ => by simpa [encode, hop, hksel] using assembleWord_fields hr⟩

/-- Settles O3: each mask and match says which fields the word has, and those decide the decoder's answer. -/
theorem decodeFollowsOpcodeMap : Obligations.DecodeFollowsOpcodeMap := by
  unfold Obligations.DecodeFollowsOpcodeMap
  intro w
  have hnop : w &&& 0xFFFFC00F#32 = 0x00000000#32 ↔ reservedBits w = 0#18 ∧ opField w = 0#4 :=
    and_opMask_eq_iff w 0
  have hconv : w &&& 0xFFFFC00F#32 = 0x00000001#32 ↔ reservedBits w = 0#18 ∧ opField w = 1#4 :=
    and_opMask_eq_iff w 1
  have hconvsep : w &&& 0xFFFFC08F#32 = 0x00000002#32 ↔
      reservedBits w = 0#18 ∧ opField w = 2#4 ∧ kselBit w = 0#1 := and_opKselMask_eq_iff w 2 0
  rw [Ne, Ne, Ne, hnop, hconv, hconvsep]
  refine ⟨fun ⟨hr, hop⟩ => decode_of_nop hr hop, fun ⟨hr, hop⟩ => decode_of_conv hr hop,
    fun ⟨hr, hop, hksel⟩ => decode_of_convsep hr hop hksel, fun h0 h1 h2 => ?_⟩
  rcases fields_cases w with h | h | h | h
  · exact absurd h h0
  · exact absurd h h1
  · exact absurd h h2
  · exact decode_of_illegalFields h

/-- Settles O4: the illegal words by their fields, and the CMD write as the issue of an ILLEGAL word. -/
theorem illegalWordsRaiseIllegalCommand : Obligations.IllegalWordsRaiseIllegalCommand := by
  unfold Obligations.IllegalWordsRaiseIllegalCommand
  refine ⟨fun w => ?_, fun s w rest why idle move illegal => ?_⟩
  · rw [decode_eq_illegal_iff, getLsbD_seven_iff]
    rfl
  · calc step s = portWrite (regOffset .cmd) 4 w { s with moves := rest } := step_cons move
      _ = writeCmd w { s with moves := rest } := portWrite_cmd w _
      _ = .next (issueIllegal { s with moves := rest }) := by rw [writeCmd, illegal]
      _ = .next (refusedWith 7 { s with moves := rest }) := by
        rw [issueIllegal_of_idle (s := { s with moves := rest }) idle]

/-- Settles O5, from the decoder's first row. -/
theorem nopWords : Obligations.NopWords := by
  unfold Obligations.NopWords
  exact ⟨fun w => decode_eq_nop_iff, rfl⟩

/-- Settles O6: the rows by evaluation, and the two refusals by the check that fails first in every IDLE state. -/
theorem workedEncodings : Obligations.WorkedEncodings := by
  unfold Obligations.WorkedEncodings
  have hwidth (s : State) (idle : s.Idle) (narrow : s.params.accW ≤ 32) :
      exec (.conv .u32 .a 0) s = .next (refusedWith 2 s) :=
    exec_conv_of_violation (c := .width) idle (by simp [checkConv, EType.elem?, widthViolated, elemBits, narrow]) .a 0
  have hetype (s : State) (idle : s.Idle) : exec (.conv .reserved3 .a 0) s = .next (refusedWith 4 s) :=
    exec_conv_of_violation (c := .etype) idle rfl .a 0
  refine ⟨?_, ?_, ?_, ?_, ?_, ?_, ?_, ?_, ?_, ?_, ?_, ?_, hwidth, ?_, hetype, ?_, ?_, ?_, ?_, ?_⟩
  all_goals decide

/-- Settles O7. -/
theorem tableWordsReachTheDecoder : Obligations.TableWordsReachTheDecoder := by
  unfold Obligations.TableWordsReachTheDecoder
  refine ⟨decodeBytes_bytesOfWord, fun n hn => ?_⟩
  rw [decodeTableWord, if_pos (Nat.le_refl 32), tableWord_of_lt hn, decodeBytes_bytesOfWord]

/-- Settles O60: the OFFSET write stands before the command's own write, which exists exactly for an rshift below 64. -/
theorem pseudoInstructionsWriteOffset : Obligations.PseudoInstructionsWriteOffset := by
  unfold Obligations.PseudoInstructionsWriteOffset
  refine ⟨fun t k r o h => ?_, fun t r o h => ?_, fun t k r o h => ?_, fun k x y v h => ?_,
    fun base w h z rstride bstride => ⟨rfl, rfl⟩⟩
  · rw [assemble, cmdMove_of_wellFormed (i := .conv t.etype k (r.getD 0)) (decide_eq_true h)]
    rfl
  · rw [assemble, cmdMove_of_wellFormed (i := .convsep t.etype (r.getD 0)) (decide_eq_true h)]
    rfl
  · have hconv : cmdMove (.conv t.etype k r) = none := cmdMove_of_not_wellFormed (decide_eq_false (Nat.not_lt.2 h))
    have hconvsep : cmdMove (.convsep t.etype r) = none :=
      cmdMove_of_not_wellFormed (decide_eq_false (Nat.not_lt.2 h))
    simp [assemble, hconv, hconvsep]
  · rw [assemble, ksetMove_of_out_of_range h]
    rfl

end Sys2Proof.Machine
end

section
/-! Obligations O12, O31, O32 and O47: the commands over an empty raster, the two steps of a lane that holds a row, and
the closed form of the tap bounds. -/

namespace Sys2Proof.Machine

/-- Over an empty raster a command that passes its checks has completed inside the CMD write (R149; log 13). -/
theorem Accepts.exec_of_passEmpty {i : Instr} {s : State} {t : ElemType} (h : Accepts i s t) (idle : s.Idle)
    (empty : passEmpty s (firstPass i) = true) : exec i s = .next (completedAtOnce i s) := by
  rw [h.exec_eq idle]
  rcases accept_cases (p := firstPass i) h.type h.common with ⟨nonempty, _⟩ | ⟨_, e⟩
  · cases empty.symm.trans nonempty
  · rw [e]
    rfl

/-- A pass is empty exactly if the raster has no column, no row or no band for it (R149). -/
theorem passEmpty_iff {s : State} {p : Pass} :
    passEmpty s p = true ↔ rasterW s = 0 ∨ rasterH s = 0 ∨ zproc s p = 0 := by
  simp [passEmpty, or_assoc]

/-- Settles O12: an empty raster is one over which the first pass is empty. -/
theorem emptyRasterCommandsComplete : Obligations.EmptyRasterCommandsComplete := by
  unfold Obligations.EmptyRasterCommandsComplete
  intro s e r t idle type common
  have toNat_zero {b : BitVec 16} (hb : b = 0) : b.toNat = 0 := congrArg BitVec.toNat hb
  refine ⟨fun k empty => ?_, fun kernels fits empty => ?_⟩
  · have h : Accepts (.conv e k r) s t := ⟨type, common⟩
    exact h.exec_of_passEmpty idle (passEmpty_iff.2 (empty.imp toNat_zero (Or.imp toNat_zero toNat_zero)))
  · have h : Accepts (.convsep e r) s t := ⟨type, common, kernels, fits⟩
    exact h.exec_of_passEmpty idle (passEmpty_iff.2 (empty.imp toNat_zero (Or.imp toNat_zero toNat_zero)))

/-- Settles O31: the lane has a tap left, and the tap is one `tapStep`. -/
theorem laneAddsOneTap : Obligations.LaneAddsOneTap := by
  unfold Obligations.LaneAddsOneTap
  intro s q t k l run seq type lane tap
  rw [engineStep_lane run seq type lane, if_pos tap]
  rfl

/-- Pass 1 of CONVSEP stores its samples unscaled (R164). -/
theorem lanePattern_sep1 (s : State) (t : ElemType) {q : Seq} (pass : q.pass = .sep1) (l : Lane) :
    lanePattern s t q l = fpq s.params.accW t l.acc 0 0 := by
  rw [lanePattern, pass]
  rfl

/-- Settles O32: the lane has no tap left, and the sample goes to IBUF in pass 1 and to DST in the others. -/
theorem laneStoresQuantizedSample : Obligations.LaneStoresQuantizedSample := by
  unfold Obligations.LaneStoresQuantizedSample
  intro s q t k l run seq type lane tap unspoiled
  rw [engineStep_lane run seq type lane, if_neg (Nat.not_lt.2 tap)]
  rcases passOut_cases s t q.pass q.z l.y l.x (lanePattern s t q l) with ⟨pass, e⟩ | ⟨pass, _, e⟩ | ⟨_, spoiled, _⟩
  · rw [e, if_pos pass, if_pos pass, lanePattern_sep1 s t pass l]
    rfl
  · rw [e, if_neg pass, if_neg pass]
    rfl
  · cases unspoiled.symm.trans spoiled

/-- An odd kernel dimension reaches as far to the left of the sample as to its right (R133). -/
theorem tapNeg_odd (r : Nat) : tapNeg (2 * r + 1) = -(r : Int) := by
  unfold tapNeg tapPos
  omega

/-- Settles O47, by halving the dimension. -/
theorem tapBoundsClosedForm : Obligations.TapBoundsClosedForm := by
  unfold Obligations.TapBoundsClosedForm
  refine ⟨fun r => ⟨tapNeg_odd r, ?_⟩, fun r => ⟨?_, ?_⟩, fun d => ?_⟩
  · unfold tapPos
    omega
  · unfold tapNeg tapPos
    omega
  · unfold tapPos
    omega
  · unfold tapNeg
    omega

end Sys2Proof.Machine
end

section
/-! The dense sum and the quantizer on special operands: no wrap under R139's bound, a kernel of ones (R145), the identity
kernel and the empty kernel (R149). Obligations O48, O49, O53, O54 and O55. -/

namespace Sys2Proof.Machine

/-! ### The accumulator's wrap (R138, R139) -/

/-- Settles O48. -/
theorem tapSumWrapsExactSum : Obligations.TapSumWrapsExactSum := by
  unfold Obligations.TapSumWrapsExactSum
  exact fun accW w h kw kh coef inp x y _ => tapSum_eq_wrapS accW w h kw kh coef inp x y

/-- wrapS leaves an N-bit two's-complement value as it is (R9). -/
theorem wrapS_of_range {n : Nat} (hn : 0 < n) {v : Int} (h : accMin n ≤ v) (h' : v ≤ accMax n) : wrapS n v = v := by
  have hpow : (2 : Int) ^ n = 2 * 2 ^ (n - 1) := by rw [← pow_succ', Nat.sub_add_cancel hn]
  unfold accMin at h
  unfold accMax at h'
  push_cast at h h'
  apply Int.bmod_eq_of_le <;> push_cast <;> omega

/-- ACCmin lies one further from 0 than ACCmax (R11). -/
theorem accMin_eq (n : Nat) : accMin n = -accMax n - 1 := by
  unfold accMin accMax
  omega

/-- A sum of a list is bounded by the sum of bounds of its entries. -/
theorem abs_sum_map_le {α : Type} {f g : α → Int} {l : List α} (h : ∀ a ∈ l, |f a| ≤ g a) :
    |(l.map f).sum| ≤ (l.map g).sum := by
  calc |(l.map f).sum| ≤ ((l.map f).map abs).sum := List.le_sum_of_subadditive abs abs_zero.le abs_add_le _
    _ = (l.map fun a => |f a|).sum := by rw [List.map_map, Function.comp_def]
    _ ≤ (l.map g).sum := List.sum_le_sum h

/-- A tap adds at most its coefficient's absolute value times the largest sample's (R139). -/
theorem abs_tapTerm_le {coef inp : Nat → Nat → Int} {bound : Int} (hinp : ∀ yy xx, |inp yy xx| ≤ bound)
    (w h kw kh x y ky kx : Nat) : |tapTerm w h kw kh coef inp x y ky kx| ≤ |coef ky kx| * bound := by
  have hbound : 0 ≤ bound := (abs_nonneg _).trans (hinp 0 0)
  unfold tapTerm
  split
  · rw [tapProduct, abs_mul]
    exact mul_le_mul_of_nonneg_left (hinp _ _) (abs_nonneg _)
  · simpa using mul_nonneg (abs_nonneg (coef ky kx)) hbound

/-- The exact sum is at most the sum of the coefficients' absolute values times the largest sample's (R139). -/
theorem abs_exactSum_le {coef inp : Nat → Nat → Int} {bound : Int} (hinp : ∀ yy xx, |inp yy xx| ≤ bound)
    (w h kw kh x y : Nat) :
    |exactSum w h kw kh coef inp x y| ≤
      ((List.range kh).map fun ky => ((List.range kw).map fun kx => |coef ky kx|).sum).sum * bound := by
  rw [← List.sum_map_mul_right]
  refine abs_sum_map_le fun ky _ => ?_
  rw [← List.sum_map_mul_right]
  exact abs_sum_map_le fun kx _ => abs_tapTerm_le hinp w h kw kh x y ky kx

/-- Settles O49: the exact sum is within the accumulator's range, where the one wrap does nothing. -/
theorem noWrapUnderBound : Obligations.NoWrapUnderBound := by
  unfold Obligations.NoWrapUnderBound
  intro accW w h kw kh coef inp t x y haccW hrange hbound
  have hinp (yy xx : Nat) : |inp yy xx| ≤ max |tMin t| (tMax t) := by
    obtain ⟨hlo, hhi⟩ := hrange yy xx
    rw [← abs_of_nonneg (tMin_le_zero_le_tMax t).2]
    exact abs_le_max_abs_abs hlo hhi
  obtain ⟨hlo, hhi⟩ := abs_le.1 ((abs_exactSum_le hinp w h kw kh x y).trans hbound)
  rw [tapSum_eq_wrapS]
  exact wrapS_of_range haccW (by rw [accMin_eq]; omega) hhi

/-! ### A kernel of ones (R145) -/

/-- The offset `i` of a sample at `x` stays within a side of length `n`: one half of the boundary handler (R135). -/
def insideSide (n x : Nat) (i : Int) : Bool := decide (0 ≤ (x : Int) + i) && decide ((x : Int) + i < (n : Int))

theorem inside_eq (w h x y : Nat) (i j : Int) : inside w h x y i j = (insideSide w x i && insideSide h y j) := rfl

/-- Of `n` positions those from `lo` up to `hi` are counted. -/
theorem sum_range_indicator (n lo hi : Nat) :
    ((List.range n).map fun k => if lo ≤ k ∧ k < hi then (1 : Int) else 0).sum = ((min n hi - lo : Nat) : Int) := by
  induction n with
  | zero => simp
  | succ n ih =>
    rw [List.range_succ, List.map_append, List.sum_append, ih, List.map_singleton, List.sum_singleton]
    split <;> omega

/-- How many of the 2r+1 offsets of a sample at `x` stay within a side of length `n` (R145). -/
theorem sum_insideSide {n x : Nat} (hx : x < n) (r : Nat) :
    ((List.range (2 * r + 1)).map fun k => if insideSide n x (tapI (2 * r + 1) k) then (1 : Int) else 0).sum =
      ((min x r + 1 + min (n - 1 - x) r : Nat) : Int) := by
  have hside (k : Nat) : insideSide n x (tapI (2 * r + 1) k) = true ↔ r - x ≤ k ∧ k < n + r - x := by
    rw [insideSide, tapI, tapNeg_odd, Bool.and_eq_true, decide_eq_true_eq, decide_eq_true_eq]
    omega
  simp only [hside, sum_range_indicator]
  omega

/-- Over ones a kernel of ones sums 1 for each pair of an offset inside the raster's width and one inside its height. -/
theorem exactSum_ones (w h kw kh x y : Nat) :
    exactSum w h kw kh (fun _ _ => 1) (fun _ _ => 1) x y =
      ((List.range kw).map fun kx => if insideSide w x (tapI kw kx) then (1 : Int) else 0).sum *
        ((List.range kh).map fun ky => if insideSide h y (tapJ kh ky) then (1 : Int) else 0).sum := by
  rw [← List.sum_map_mul_left]
  refine congrArg List.sum (List.map_congr_left fun ky _ => ?_)
  rw [← List.sum_map_mul_right]
  refine congrArg List.sum (List.map_congr_left fun kx _ => ?_)
  rw [inside_eq]
  cases insideSide w x (tapI kw kx) <;> cases insideSide h y (tapJ kh ky) <;> rfl

/-- Settles O53: the count of either side, multiplied. -/
theorem contributingTapCount : Obligations.ContributingTapCount := by
  unfold Obligations.ContributingTapCount
  intro w h r x y hx hy
  rw [exactSum_ones, Nat.cast_mul, ← sum_insideSide hx r, ← sum_insideSide hy r]
  rfl

/-! ### The bytes of a load (R76) -/

/-- MemRead of `n` bytes gives a number of 8n bits. -/
theorem memReadNat_lt (m : List Host.Cell) (a n : Nat) : memReadNat m a n < 256 ^ n := by
  induction n generalizing a with
  | zero => exact Nat.one_pos
  | succ n ih =>
    have hbyte : (readByte m a).toNat < 256 := (readByte m a).isLt
    have hrest := ih (a + 1)
    rw [memReadNat, Nat.pow_succ']
    omega

theorem memRead_toNat (m : List Host.Cell) (a : Nat) {n : Nat} (hn : n ≤ 4) :
    (memRead m a n).toNat = memReadNat m a n := by
  have hpow : 256 ^ n ≤ 256 ^ 4 := Nat.pow_le_pow_right (by decide) hn
  rw [memRead, BitVec.toNat_ofNat]
  exact Nat.mod_eq_of_lt ((memReadNat_lt m a n).trans_le hpow)

/-- Digit `j` to base 256 of what MemRead gives is byte `j` of the access. -/
theorem memReadNat_byte (m : List Host.Cell) (a : Nat) {n j : Nat} (hj : j < n) :
    BitVec.ofNat 8 (memReadNat m a n / 256 ^ j) = readByte m (a + j) := by
  induction n generalizing a j with
  | zero => omega
  | succ n ih =>
    have hbyte : (readByte m a).toNat < 256 := (readByte m a).isLt
    rw [memReadNat]
    cases j with
    | zero =>
      apply BitVec.eq_of_toNat_eq
      rw [BitVec.toNat_ofNat, Nat.pow_zero, Nat.div_one, Nat.add_zero a]
      omega
    | succ j =>
      have hdiv : ((readByte m a).toNat + 256 * memReadNat m (a + 1) n) / 256 = memReadNat m (a + 1) n := by omega
      rw [Nat.pow_succ', ← Nat.div_div_eq_div_mul, hdiv, ih (a + 1) (Nat.lt_of_succ_lt_succ hj), Nat.add_right_comm,
        Nat.add_assoc]

/-- Byte `j` of what an access reads is byte `j` of the access (R76). -/
theorem extractLsb'_memRead (m : List Host.Cell) (a : Nat) {n j : Nat} (hn : n ≤ 4) (hj : j < n) :
    (memRead m a n).extractLsb' (8 * j) 8 = readByte m (a + j) := by
  rw [extractLsb'_byte, memRead_toNat m a hn, memReadNat_byte m a hj]

/-- The pattern of a sample has N(T) bits (R75). -/
theorem memRead_toNat_lt (m : List Host.Cell) (a : Nat) (t : ElemType) :
    (memRead m a (elemBytes t)).toNat < 2 ^ elemBits t := by
  rw [memRead_toNat m a (elemBytes_le t), elemBits_eq, Nat.pow_mul]
  exact memReadNat_lt m a (elemBytes t)

/-! ### The identity kernel and the empty kernel (R149) -/

/-- Under the WIDTH check every value of the type is one of the accumulator (R186). -/
theorem accRange_of_width {accW : Nat} {t : ElemType} (h : elemBits t < accW) {v : Int} (hlo : tMin t ≤ v)
    (hhi : v ≤ tMax t) : accMin accW ≤ v ∧ v ≤ accMax accW := by
  have hbits : (2 : Int) ^ elemBits t = 2 * 2 ^ (elemBits t - 1) := by
    rw [← pow_succ', Nat.sub_add_cancel (elemBits_pos t)]
  have hacc : (2 : Int) ^ elemBits t ≤ 2 ^ (accW - 1) := pow_le_pow_right₀ (by decide) (by omega)
  have hpos : (0 : Int) < 2 ^ (elemBits t - 1) := by positivity
  have hmin : -2 ^ elemBits t ≤ tMin t := by
    unfold tMin
    push_cast
    split <;> omega
  have hmax : tMax t < 2 ^ elemBits t := by
    unfold tMax
    push_cast
    split <;> omega
  unfold accMin accMax
  push_cast
  omega

/-- A pattern's value, narrowed, is the pattern (R9, R11). -/
theorem lowN_valT {t : ElemType} {p : BitVec 32} (h : p.toNat < 2 ^ elemBits t) :
    lowN (elemBits t) (valT t p) = p := by
  have hmod : valT t p % (2 ^ elemBits t : Nat) = p.toNat := by
    have hp : (p.toNat : Int) % (2 ^ elemBits t : Nat) = p.toNat := by exact_mod_cast Nat.mod_eq_of_lt h
    unfold valT wrapS
    split
    · rw [Int.bmod_emod, hp]
    · rw [Nat.mod_eq_of_lt h, hp]
  apply BitVec.eq_of_toNat_eq
  rw [lowN_toNat (elemBits_le t), hmod, Int.toNat_natCast]

/-- A value of the type passes unscaled through the accumulator and FPQ, and only its pattern is left of it. -/
theorem fpq_wrapS_of_range {accW : Nat} {t : ElemType} (h : elemBits t < accW) {v : Int} (hlo : tMin t ≤ v)
    (hhi : v ≤ tMax t) : fpq accW t (wrapS accW v) 0 0 = lowN (elemBits t) v := by
  obtain ⟨hmin, hmax⟩ := accRange_of_width h hlo hhi
  have hscale : floorShr v 0 + 0 = v := by simp [floorShr]
  rw [wrapS_of_range (Nat.zero_lt_of_lt h) hmin hmax, fpq_of_width h, hscale, clamp_of_range hlo hhi]

/-- The single tap of a 1 x 1 kernel is at the sample itself. -/
theorem exactSum_one_by_one {w h : Nat} (coef inp : Nat → Nat → Int) {x y : Nat} (hx : x < w) (hy : y < h) :
    exactSum w h 1 1 coef inp x y = coef 0 0 * inp y x := by
  have hoffset : tapI 1 0 = 0 ∧ tapJ 1 0 = 0 := by decide
  simp [exactSum, tapProduct, inside, hoffset, hx, hy]

/-- Settles O54: the exact sum is the source sample's value, which neither the wrap nor FPQ changes. -/
theorem identityKernelCopies : Obligations.IdentityKernelCopies := by
  unfold Obligations.IdentityKernelCopies
  intro s t k z y x width hx hy hdim hcoef hoffset
  have hsum : denseSum s t k z y x = valT t (memRead s.mem (sampleAddr s.src t z y x) (elemBytes t)) := by
    rw [denseSum, hdim]
    exact (exactSum_one_by_one _ _ hx hy).trans (by rw [hcoef, Int.one_mul, srcBand, loadSample])
  have hzero : offsetVal s = 0 := by simp [offsetVal, hoffset]
  obtain ⟨hlo, hhi⟩ := valT_range t (memRead s.mem (sampleAddr s.src t z y x) (elemBytes t))
  rw [densePattern, hsum, hzero, fpq_wrapS_of_range width hlo hhi, lowN_valT (memRead_toNat_lt _ _ t)]

/-- A kernel with no row or no column has no tap. -/
theorem exactSum_of_empty {kw kh : Nat} (h : kw = 0 ∨ kh = 0) (w h' : Nat) (coef inp : Nat → Nat → Int) (x y : Nat) :
    exactSum w h' kw kh coef inp x y = 0 := by
  rcases h with rfl | rfl <;> simp [exactSum]

/-- Settles O55: with no tap the sum is 0, and only the offset is left to clamp. -/
theorem emptyKernelStoresOffset : Obligations.EmptyKernelStoresOffset := by
  unfold Obligations.EmptyKernelStoresOffset
  intro s t k r z y x width hdim
  have toNat_zero {b : BitVec 4} (hb : b = 0) : b.toNat = 0 := congrArg BitVec.toNat hb
  have hsum : denseSum s t k z y x = 0 := exactSum_of_empty (hdim.imp toNat_zero toNat_zero) ..
  have hwrap : wrapS s.params.accW 0 = 0 := by simp [wrapS]
  have hscale : floorShr 0 r + offsetVal s = offsetVal s := by simp [floorShr]
  rw [densePattern, hsum, hwrap, fpq_of_width width, hscale]

end Sys2Proof.Machine
end

section
/-! SUPPORT. Canonical stores that read alike are equal, and what is left of a command that has completed. Obligations O17
and O20. -/

namespace Sys2Proof.Machine

/-! ### The canonical form is unique (R70) -/

section Cells

variable {w : Nat}

/-- The first entry of a canonical store reads as its value, and no index below it is listed. -/
theorem cellGet_cons_of_le {lo : Option Nat} {k : Nat} {v : BitVec w} {rest : List (Nat × BitVec w)}
    (h : cellsAbove lo ((k, v) :: rest) = true) {a : Nat} (ha : a ≤ k) :
    cellGet ((k, v) :: rest) a = if k = a then v else unlisted := by
  obtain ⟨_, _, hrest⟩ := cellsAbove_cons.1 h
  rw [cellGet, cellGet_of_above hrest ha]

/-- Two canonical stores that read alike start with the same entry. -/
theorem head_eq_of_cellGet_eq {lo : Option Nat} {k k' : Nat} {v v' : BitVec w} {rest rest' : List (Nat × BitVec w)}
    (h : cellsAbove lo ((k, v) :: rest) = true) (h' : cellsAbove lo ((k', v') :: rest') = true)
    (e : ∀ a, cellGet ((k, v) :: rest) a = cellGet ((k', v') :: rest') a) : k = k' ∧ v = v' := by
  obtain ⟨_, hv, _⟩ := cellsAbove_cons.1 h
  obtain ⟨_, hv', _⟩ := cellsAbove_cons.1 h'
  have hk : k = k' := by
    rcases Nat.lt_trichotomy k k' with hlt | heq | hlt
    · have hread := e k
      rw [cellGet_cons_of_le h (Nat.le_refl k), cellGet_cons_of_le h' hlt.le, if_pos rfl, if_neg hlt.ne'] at hread
      exact absurd hread hv
    · exact heq
    · have hread := e k'
      rw [cellGet_cons_of_le h hlt.le, cellGet_cons_of_le h' (Nat.le_refl k'), if_neg hlt.ne', if_pos rfl] at hread
      exact absurd hread.symm hv'
  subst hk
  have hread := e k
  rw [cellGet_cons_of_le h (Nat.le_refl k), cellGet_cons_of_le h' (Nat.le_refl k), if_pos rfl, if_pos rfl] at hread
  exact ⟨rfl, hread⟩

/-- Equal stores are equal lists. -/
theorem cells_ext {lo : Option Nat} {l l' : List (Nat × BitVec w)} (h : cellsAbove lo l = true)
    (h' : cellsAbove lo l' = true) (e : ∀ a, cellGet l a = cellGet l' a) : l = l' := by
  have listed {lo : Option Nat} {c : Nat × BitVec w} {rest : List (Nat × BitVec w)}
      (h : cellsAbove lo (c :: rest) = true) : cellGet (c :: rest) c.1 ≠ unlisted := by
    rw [cellGet_cons_of_le h (Nat.le_refl _), if_pos rfl]
    exact (cellsAbove_cons.1 h).2.1
  induction l generalizing lo l' with
  | nil =>
    cases l' with
    | nil => rfl
    | cons c rest' => exact absurd (e c.1).symm (listed h')
  | cons c rest ih =>
    cases l' with
    | nil => exact absurd (e c.1) (listed h)
    | cons c' rest' =>
      obtain ⟨hk, hv⟩ := head_eq_of_cellGet_eq h h' e
      obtain rfl : c = c' := Prod.ext hk hv
      obtain ⟨_, _, hrest⟩ := cellsAbove_cons.1 h
      obtain ⟨_, _, hrest'⟩ := cellsAbove_cons.1 h'
      refine congrArg (c :: ·) (ih hrest hrest' fun a => ?_)
      rcases Nat.lt_or_ge c.1 a with hlt | hle
      · simpa [cellGet, hlt.ne] using e a
      · rw [cellGet_of_above hrest hle, cellGet_of_above hrest' hle]

end Cells

/-- An address beyond raster memory is not listed (R70). -/
theorem cellGet_of_memSize_le {m : List Host.Cell} (h : Memory.wf m = true) {a : Nat} (ha : memSize ≤ a) :
    cellGet m a = unlisted := by
  rcases cellGet_eq_unlisted_or_mem m a with e | hmem
  · exact e
  · simp only [Memory.wf, Bool.and_eq_true, List.all_eq_true, decide_eq_true_eq] at h
    obtain ⟨_, addresses⟩ := h
    exact absurd (addresses _ hmem) (Nat.not_lt.2 ha)

/-- Raster memories that read alike are equal. -/
theorem memory_ext {m m' : List Host.Cell} (h : Memory.wf m = true) (h' : Memory.wf m' = true)
    (e : ∀ a, a < memSize → readByte m a = readByte m' a) : m = m' := by
  refine cells_ext (Memory.wf_cells h) (Memory.wf_cells h') fun a => ?_
  rcases Nat.lt_or_ge a memSize with ha | ha
  · simpa only [readByte, wrapAddr_of_lt ha] using e a ha
  · rw [cellGet_of_memSize_le h ha, cellGet_of_memSize_le h' ha]

/-- A result and what was in memory before determine every byte. -/
theorem HoldsResult.readByte_eq {s u u' : State} {t : ElemType} {pattern : Nat → Nat → Nat → BitVec 32}
    (h : HoldsResult s u t pattern) (h' : HoldsResult s u' t pattern) {a : Nat} (ha : a < memSize) :
    readByte u.mem a = readByte u'.mem a := by
  obtain ⟨samples, outside⟩ := h
  obtain ⟨samples', outside'⟩ := h'
  by_cases hfp : a ∈ footprint s.dst t s.dst.z.toNat
  · obtain ⟨z, hz, y, hy, x, hx, hmem⟩ := mem_footprint.1 hfp
    obtain ⟨n, hn, rfl⟩ := mem_accessBytes.1 hmem
    rw [readByte_wrapAddr, readByte_wrapAddr, ← extractLsb'_memRead _ _ (elemBytes_le t) hn,
      ← extractLsb'_memRead _ _ (elemBytes_le t) hn, samples z y x hz hy hx, samples' z y x hz hy hx]
  · rw [outside a ha hfp, outside' a ha hfp]

/-! ### The end of an accepted command -/

section Accepts

variable {i : Instr} {s : State} {t : ElemType} (h : Accepts i s t)
include h

/-- A run that begins with the acceptance of a command keeps the invariant. -/
theorem Accepts.inv_of_reaches (hs : s.Inv) (idle : s.Idle) {v u : State} {n : Nat} (hexec : exec i s = .next v)
    (hreach : Reaches v n u) : u.Inv := by
  cases (h.exec_eq idle).symm.trans hexec
  exact hreach.induction (fun v w hv e => stepKeepsInvariant v w hv e) (h.inv hs idle)

/-- Acceptance changes nothing of what the host has put in place but CMDL (R229). -/
theorem Accepts.sameHostSide (idle : s.Idle) {v : State} (hexec : exec i s = .next v) :
    SameHostSide { s with cmdl := (encode i).setWidth 14 } v := by
  cases (h.exec_eq idle).symm.trans hexec
  have latched : SameHostSide { s with cmdl := (encode i).setWidth 14 }
      (latchCommand ((encode i).setWidth 14) (clearDone s)) :=
    ⟨⟨rfl, rfl, rfl, rfl, rfl, rfl, rfl, rfl, rfl⟩, rfl, rfl, rfl⟩
  exact latched.trans (startPass_effect (firstPass i) _).sameHostSide

/-- With nothing pending, nothing of what the host has put in place changes to the end of a run. -/
theorem Accepts.sameHostSide_of_reaches (hs : s.Inv) (idle : s.Idle) (moves : s.moves = []) {v u : State} {n : Nat}
    (hexec : exec i s = .next v) (hreach : Reaches v n u) :
    SameHostSide { s with cmdl := (encode i).setWidth 14 } u := by
  have issued := h.sameHostSide idle hexec
  have inv : v.Inv := h.inv_of_reaches hs idle hexec (reaches_zero.2 rfl)
  exact issued.trans
    (hreach.undisturbed inv (issued.moves.trans moves) (issued.sameCommand.cmdType_eq.trans h.type)).host

/-- A command that is accepted with nothing pending, its launch keeping R258 items 1 and 2, completes with its result
(R142, R148, R171). -/
theorem Accepts.completes_with_result (hs : s.Inv) (idle : s.Idle) (moves : s.moves = []) (hi : i.wellFormed = true)
    (launch : LaunchOk s t) :
    ∃ v n u, exec i s = .next v ∧ Reaches v n u ∧ CompletedFrom s u ∧ SameOperands s u ∧ u.rdata = s.rdata ∧
      u.moves = [] ∧ HoldsResult s u t (storedPattern i s t) := by
  obtain ⟨v, n, u, hexec, hreach, completed, operands, _⟩ := h.completes hs idle moves
  have host := h.sameHostSide_of_reaches hs idle moves hexec hreach
  obtain ⟨_, _, _, result⟩ :=
    resultIndependentOfSchedule s i t v n u hs idle hi h launch (by simp [moves]) hexec hreach
  obtain ⟨_, holds⟩ := result (by rw [completed.status])
  exact ⟨v, n, u, hexec, hreach, completed, operands, host.rdata, host.moves.trans moves, holds⟩

end Accepts

/-- Settles O17: CONV is one of the commands that complete with their result. -/
theorem convComputesDenseConvolution : Obligations.ConvComputesDenseConvolution := by
  unfold Obligations.ConvComputesDenseConvolution
  intro s e k r t hs idle moves hr type common launch
  have h : Accepts (.conv e k r) s t := ⟨type, common⟩
  exact h.completes_with_result hs idle moves (decide_eq_true hr) launch

/-! ### Another number of lanes and another schedule (R147) -/

/-- The state `s` with other moves pending and `lanes` lanes. -/
def State.rescheduled (s : State) (moves : List Move) (lanes : Nat) : State :=
  { s with moves := moves, params := { s.params with nlanes := lanes } }

section Rescheduled

variable {s : State} (moves : List Move) {lanes : Nat}

/-- In IDLE the invariant does not read the moves, nor the number of lanes but for its range (R7). -/
theorem State.Inv.rescheduled (h : s.Inv) (idle : s.Idle) (legal : 1 ≤ lanes) : (s.rescheduled moves lanes).Inv := by
  obtain ⟨busy, _⟩ := idle
  obtain ⟨accW, accW', ibufCap, ibufCap', _⟩ := h.params
  have hibuf : s.ibuf = [] := h.ibuf.2.1 (h.status.seq_eq_none busy)
  exact inv_of_not_busy busy ⟨accW, accW', ibufCap, ibufCap', legal⟩ h.status hibuf (h.hazard.1 busy) h.memory

/-- No check reads the number of lanes (R228). -/
theorem Accepts.rescheduled {i : Instr} {t : ElemType} (h : Accepts i s t) :
    Accepts i (s.rescheduled moves lanes) t := by
  cases i with
  | nop => exact h.elim
  | conv e k r => exact h
  | convsep e r => exact h

/-- No closed form reads the number of lanes (R142, R171). -/
theorem storedPattern_rescheduled (i : Instr) (t : ElemType) :
    storedPattern i (s.rescheduled moves lanes) t = storedPattern i s t := by
  funext z y x
  cases i <;> rfl

end Rescheduled

/-- Settles O20: both runs hold the same result at the end, and canonical memories that read alike are equal. -/
theorem resultIndependentOfLanes : Obligations.ResultIndependentOfLanes := by
  unfold Obligations.ResultIndependentOfLanes
  intro s s' i t v v' n n' u u' hs idle hi h launch lanes hs' harmless harmless' hexec hreach busy hexec' hreach' busy'
  generalize s'.moves = moves at hs' harmless'
  generalize s'.params.nlanes = nlanes at hs' lanes
  obtain rfl : s' = s.rescheduled moves nlanes := hs'
  have inv' := hs.rescheduled moves idle lanes
  have h' := h.rescheduled moves (lanes := nlanes)
  obtain ⟨_, _, _, done⟩ := resultIndependentOfSchedule s i t v n u hs idle hi h launch harmless hexec hreach
  obtain ⟨_, _, _, done'⟩ :=
    resultIndependentOfSchedule _ i t v' n' u' inv' idle hi h' launch harmless' hexec' hreach'
  obtain ⟨completed, holds⟩ := done busy
  obtain ⟨completed', holds'⟩ := done' busy'
  rw [storedPattern_rescheduled] at holds'
  have wf : Memory.wf u.mem = true := (h.inv_of_reaches hs idle hexec hreach).memory
  have wf' : Memory.wf u'.mem = true := (h'.inv_of_reaches inv' idle hexec' hreach').memory
  exact ⟨memory_ext wf wf' fun a ha => holds.readByte_eq (s := s) holds' ha,
    completed.status.trans completed'.status.symm⟩

end Sys2Proof.Machine
end

section
/-! Obligation O22: under any schedule the engine's moves run out, and the default schedule makes progress. -/

namespace Sys2Proof.Machine

/-- Nothing is pending but steps of the engine and polls of STATUS. -/
def OnlyEngineAndPolls (moves : List Move) : Prop := ∀ m ∈ moves, m = .await ∨ ∃ e, m = .engine e

/-- While a command runs and nothing else is pending, a step is the engine's: the move that is next, or the default one
where none is or the host polls (log 10, log 16). -/
theorem step_of_onlyEngineAndPolls {s : State} (pending : OnlyEngineAndPolls s.moves) (run : s.status.busy = true) :
    step s = .next (engineDefault s) ∨
      ∃ e rest, s.moves = .engine e :: rest ∧ step s = .next (engineStep e { s with moves := rest }) := by
  cases hm : s.moves with
  | nil => exact .inl (step_of_running hm run)
  | cons m rest =>
    rcases pending m (by simp [hm]) with rfl | ⟨e, rfl⟩
    · refine .inl ((step_cons hm).trans ?_)
      rw [perform, pollStatus, if_pos run]
    · exact .inr ⟨e, rest, rfl, step_cons hm⟩

/-- A step of the engine completes the running command or leaves it running. -/
theorem EngineEffect.outcome {s u : State} {q : Seq} (h : EngineEffect s u) (seq : s.seq = some q) :
    RunOutcome s (fun _ => True) u := by
  cases h with
  | idle => exact .running q rfl seq trivial
  | took q y run seq row lane free => exact .running _ rfl rfl trivial
  | tapped q t k l run seq type lane tap => exact .running _ rfl rfl trivial
  | stored q t k l run seq type lane tap => exact .running _ (passOut_status ..) rfl trivial
  | nextBand q run seq done more => exact .running _ rfl rfl trivial
  | endPass q run seq done last => exact finishPass_outcome fun _ => trivial

theorem RunOutcome.completedFrom_or {s u : State} {P : Seq → Prop} (h : RunOutcome s P u) :
    CompletedFrom s u ∨ (u.status = s.status ∧ ∃ q, u.seq = some q ∧ P q) := by
  cases h with
  | completed => exact .inl (complete_completedFrom s)
  | running q status seq holds => exact .inr ⟨status, q, seq, holds⟩

/-- What a run has left where engine moves are pending: the moves, and then the work under the default schedule. -/
def pendingRank (s : State) (q : Seq) : ℕ ×ₗ ℕ ×ₗ ℕ ×ₗ ℕ ×ₗ ℕ ×ₗ ℕ ×ₗ ℕ := toLex (s.moves.length, runRank s q)

/-- Each step completes the command, or uses up a move or part of the work (R148). -/
theorem exists_step_pendingRank_lt {s : State} {q : Seq} (hs : s.Inv) (seq : s.seq = some q)
    (pending : OnlyEngineAndPolls s.moves) :
    ∃ v, step s = .next v ∧ OnlyEngineAndPolls v.moves ∧
      (CompletedFrom s v ∨
        (v.status = s.status ∧ ∃ q', v.seq = some q' ∧ pendingRank v q' < pendingRank s q)) := by
  have run : s.status.busy = true := by simp [hs.status.2, seq]
  rcases step_of_onlyEngineAndPolls pending run with hstep | ⟨e, rest, hm, hstep⟩
  · have host : SameHostSide s (engineDefault s) := (engineStep_effect (defaultMove s) s).sameHostSide
    refine ⟨_, hstep, host.moves ▸ pending, (engineDefault_outcome hs run seq).completedFrom_or.imp_right ?_⟩
    rintro ⟨status, q', seq', less⟩
    refine ⟨status, q', seq', ?_⟩
    rw [pendingRank, host.moves, host.sameCommand.runRank_eq]
    exact Prod.Lex.toLex_lt_toLex.2 (.inr ⟨rfl, less⟩)
  · have effect := engineStep_effect e { s with moves := rest }
    have hmoves : (engineStep e { s with moves := rest }).moves = rest := effect.sameHostSide.moves
    refine ⟨_, hstep, ?_, ?_⟩
    · rw [hmoves]
      exact fun m hmem => pending m (hm ▸ List.mem_cons_of_mem _ hmem)
    · rcases (effect.outcome seq).completedFrom_or with completed | ⟨status, q', seq', _⟩
      · exact .inl (completed.congr rfl)
      · refine .inr ⟨status, q', seq', Prod.Lex.toLex_lt_toLex.2 (.inl ?_)⟩
        rw [hmoves, hm]
        exact Nat.lt_succ_self _

/-- From a state of the invariant a running command completes (R148, R265). -/
theorem exists_reaches_completed_of_pending {s : State} {q : Seq} (hs : s.Inv) (seq : s.seq = some q)
    (pending : OnlyEngineAndPolls s.moves) : ∃ n u, Reaches s n u ∧ CompletedFrom s u := by
  induction hr : pendingRank s q using WellFoundedLT.induction generalizing s q with
  | ind r ih =>
    obtain ⟨v, hstep, pending', completed | ⟨status, q', seq', less⟩⟩ := exists_step_pendingRank_lt hs seq pending
    · exact ⟨1, v, reaches_succ.2 ⟨v, hstep, reaches_zero.2 rfl⟩, completed⟩
    · obtain ⟨n, u, hreach, completed⟩ := ih _ (hr ▸ less) (stepKeepsInvariant s v hs hstep) seq' pending' rfl
      exact ⟨n + 1, u, reaches_succ.2 ⟨v, hstep, hreach⟩, completed.congr (by rw [status])⟩

/-- Settles O22: a running command has a SEQ. -/
theorem everyRunEnds : Obligations.EveryRunEnds := by
  unfold Obligations.EveryRunEnds
  intro s hs run pending
  obtain ⟨q, seq⟩ := Option.isSome_iff_exists.1 (hs.status.2.symm.trans run)
  exact exists_reaches_completed_of_pending hs seq pending

end Sys2Proof.Machine
end

section
/-! Obligations O18 and O52: CONVSEP completes with its result, and its two 1D passes against the dense convolution with
the outer product of the two kernels (R168). -/

namespace Sys2Proof.Machine

/-- Settles O18: CONVSEP is one of the commands that complete with their result. -/
theorem convsepComputesSeparableConvolution : Obligations.ConvsepComputesSeparableConvolution := by
  unfold Obligations.ConvsepComputesSeparableConvolution
  intro s e r t hs idle moves hr type common kernels fits launch
  have h : Accepts (.convsep e r) s t := ⟨type, common, kernels, fits⟩
  exact h.completes_with_result hs idle moves (decide_eq_true hr) launch

/-! ### The boundary handler in a sum (R135) -/

/-- The offset 0 of a sample of the raster is inside the raster (R135). -/
theorem insideSide_zero {n x : Nat} (hx : x < n) : insideSide n x 0 = true := by
  simp [insideSide, hx]

/-- The offset of a tap inside the raster gives a position of the raster (R135). -/
theorem toNat_lt_of_insideSide {n x : Nat} {i : Int} (hi : insideSide n x i = true) : ((x : Int) + i).toNat < n := by
  simp only [insideSide, Bool.and_eq_true, decide_eq_true_eq] at hi
  omega

/-- The sum reads the input inside the raster only (R135). -/
theorem exactSum_congr {w h : Nat} (kw kh : Nat) (coef : Nat → Nat → Int) {inp inp' : Nat → Nat → Int}
    (hinp : ∀ yy xx, yy < h → xx < w → inp yy xx = inp' yy xx) (x y : Nat) :
    exactSum w h kw kh coef inp x y = exactSum w h kw kh coef inp' x y := by
  refine congrArg List.sum (List.map_congr_left fun ky _ => ?_)
  refine congrArg List.sum (List.map_congr_left fun kx _ => ?_)
  split
  · rename_i hin
    rw [inside_eq, Bool.and_eq_true] at hin
    obtain ⟨hcolumn, hrow⟩ := hin
    rw [tapProduct, tapProduct, hinp _ _ (toNat_lt_of_insideSide hrow) (toNat_lt_of_insideSide hcolumn)]
  · rfl

/-! ### Sums with 1D kernels (R161, R162) -/

section OneD

variable {w h : Nat} (inp : Nat → Nat → Int) {x y : Nat}

/-- With a row for a kernel only the row test is left of the boundary handler (R161). -/
theorem exactSum_row (kw : Nat) (coef : Nat → Int) (hy : y < h) :
    exactSum w h kw 1 (fun _ kx => coef kx) inp x y =
      ((List.range kw).map fun kx =>
        if insideSide w x (tapI kw kx) then coef kx * inp y ((x : Int) + tapI kw kx).toNat else 0).sum := by
  have hoffset : tapJ 1 0 = 0 := by decide
  simp [exactSum, tapProduct, inside_eq, hoffset, insideSide_zero hy]

/-- With a column for a kernel only the column test is left of the boundary handler (R162). -/
theorem exactSum_column (kh : Nat) (coef : Nat → Int) (hx : x < w) :
    exactSum w h 1 kh (fun ky _ => coef ky) inp x y =
      ((List.range kh).map fun ky =>
        if insideSide h y (tapJ kh ky) then coef ky * inp ((y : Int) + tapJ kh ky).toNat x else 0).sum := by
  have hoffset : tapI 1 0 = 0 := by decide
  simp [exactSum, tapProduct, inside_eq, hoffset, insideSide_zero hx]

/-- The column sum over the row sums is the dense sum with the outer product: a tap contributes exactly when it passes
both one-sided tests (R168). -/
theorem exactSum_column_exactSum_row (kw kh : Nat) (X Y : Nat → Int) (hx : x < w) :
    exactSum w h 1 kh (fun ky _ => Y ky) (fun yy xx => exactSum w h kw 1 (fun _ kx => X kx) inp xx yy) x y =
      exactSum w h kw kh (fun ky kx => Y ky * X kx) inp x y := by
  rw [exactSum_column _ kh Y hx]
  refine congrArg List.sum (List.map_congr_left fun ky _ => ?_)
  cases hrow : insideSide h y (tapJ kh ky) with
  | false => simp [inside_eq, hrow]
  | true =>
    rw [if_pos rfl, exactSum_row inp kw X (toNat_lt_of_insideSide hrow), ← List.sum_map_mul_left]
    refine congrArg List.sum (List.map_congr_left fun kx _ => ?_)
    rw [inside_eq, hrow, Bool.and_true, mul_ite, mul_zero, tapProduct, mul_assoc]

end OneD

/-- A row sum in T's range is kept as it is: neither the wrap of ACC nor the saturation changes it (R167). -/
theorem midSample_of_range {s : State} {t : ElemType} (width : elemBits t < s.params.accW) {z y x : Nat}
    (hlo : tMin t ≤ rowSum s t z y x) (hhi : rowSum s t z y x ≤ tMax t) :
    midSample s t z y x = rowSum s t z y x := by
  obtain ⟨hmin, hmax⟩ := accRange_of_width width hlo hhi
  rw [midSample, wrapS_of_range (Nat.zero_lt_of_lt width) hmin hmax, clamp_of_range hlo hhi]

/-- Settles O52: the intermediate raster holds the exact row sums, and the column sum over them is the dense sum. -/
theorem separableEqualsDense : Obligations.SeparableEqualsDense := by
  unfold Obligations.SeparableEqualsDense
  intro s t r z y x width _ hx hrange
  have hmid (yy xx : Nat) (hyy : yy < rasterH s) (hxx : xx < rasterW s) :
      midSample s t z yy xx = rowSum s t z yy xx := by
    obtain ⟨hlo, hhi⟩ := hrange yy xx hyy hxx
    exact midSample_of_range width hlo hhi
  have hsum : columnSum s t z y x = outerSum s t z y x :=
    calc columnSum s t z y x
      _ = exactSum (rasterW s) (rasterH s) 1 s.kbDim.kw.toNat (fun ky _ => bankCoef s .b 0 ky) (rowSum s t z) x y :=
        exactSum_congr 1 _ _ hmid x y
      _ = outerSum s t z y x := exactSum_column_exactSum_row (srcBand s t z) _ _ (bankCoef s .a 0) (bankCoef s .b 0) hx
  exact ⟨hsum, by rw [sepPattern, hsum]⟩

end Sys2Proof.Machine
end

section
/-! SUPPORT. The floor shift as a division with a known quotient, and what is read back of a quantized sum. Obligations
O50 and O51. -/

namespace Sys2Proof.Machine

/-! ### The closed form of FPQ (R188) -/

/-- A quantized sample loads back as the clamp of the scaled sum: the clamp has left nothing for the narrowing to lose
(R185, R188). -/
theorem valT_fpq {accW : Nat} {t : ElemType} (h : elemBits t < accW) (sum : Int) (rshift : Nat) (offset : Int) :
    valT t (fpq accW t sum rshift offset) = clamp (floorShr sum rshift + offset) (tMin t) (tMax t) := by
  obtain ⟨hmin, hmax⟩ := tMin_le_zero_le_tMax t
  obtain ⟨hlo, hhi⟩ := clamp_range (v := floorShr sum rshift + offset) (hmin.trans hmax)
  rw [fpq_of_width h, valT_lowN hlo hhi]

/-- Settles O50: under the WIDTH check the clip step is taken, and its result is a value of the type. -/
theorem quantizerClosedForm : Obligations.QuantizerClosedForm := by
  unfold Obligations.QuantizerClosedForm
  intro accW t sum rshift offset width
  obtain ⟨hlo, hhi⟩ := valT_range t (fpq accW t sum rshift offset)
  exact ⟨doClip_of_width width, fpq_of_width width sum rshift offset, valT_fpq width sum rshift offset, hlo, hhi⟩

/-! ### Shifts past the accumulator's width (R183 item 3) -/

/-- A shift past every bit of a sum that is not negative leaves 0. -/
theorem floorShr_eq_zero {v : Int} {n : Nat} (hv : 0 ≤ v) (h : v < (2 ^ n : Nat)) : floorShr v n = 0 :=
  Int.ediv_eq_zero_of_lt hv h

/-- A shift past every bit of a negative sum leaves the sign: the floor is -1, not 0. -/
theorem floorShr_eq_neg_one {v : Int} {n : Nat} (hv : v < 0) (h : -(2 ^ n : Nat) ≤ v) : floorShr v n = -1 :=
  Int.ediv_eq_neg_one_of_neg_of_le hv (Int.neg_le_of_neg_le h)

/-- Settles O51: the accumulator's range lies in [-2^rshift, 2^rshift). -/
theorem shiftBeyondWidth : Obligations.ShiftBeyondWidth := by
  unfold Obligations.ShiftBeyondWidth
  intro accW sum rshift _ hlo hhi hshift
  have hpow : (2 : Nat) ^ (accW - 1) ≤ 2 ^ rshift := Nat.pow_le_pow_right (by decide) hshift
  unfold accMin at hlo
  unfold accMax at hhi
  exact ⟨fun hnonneg => floorShr_eq_zero hnonneg (by omega), fun hneg => floorShr_eq_neg_one hneg (by omega)⟩

end Sys2Proof.Machine
end

section
/-! SUPPORT. The register port, one law per kind of access: the fields of a register word, what a read and a write at a
register's offset do, and what a register write leaves unchanged. -/

namespace Sys2Proof

/-! ### Words made of fields -/

/-- The value of two fields put together. -/
theorem toNat_append_eq_add {m n : Nat} (hi : BitVec m) (lo : BitVec n) :
    (hi ++ lo).toNat = hi.toNat * 2 ^ n + lo.toNat := by
  rw [BitVec.toNat_append, ← Nat.shiftLeft_add_eq_or_of_lt lo.isLt, Nat.shiftLeft_eq]

/-- A word is its upper and its lower half. -/
theorem halves_append (v : Word) : v.extractLsb' 16 16 ++ v.extractLsb' 0 16 = v :=
  BitVec.extractLsb'_append_extractLsb' (w := 16) (len := 16)

end Sys2Proof

namespace Sys2Proof.Machine

/-! ### The formats of the registers (R24, R26, R28, R31, R32, R33, R109) -/

theorem statusWord_flags (st : Status) :
    (statusWord st).getLsbD 0 = st.busy ∧ (statusWord st).getLsbD 1 = st.done ∧
      (statusWord st).getLsbD 2 = st.err ∧ (statusWord st).getLsbD 3 = false := by
  simp only [statusWord, flagBit, BitVec.getLsbD_append]
  simp

/-- Above its four lowest bits STATUS is CAUSE, and reserved bits that are 0. -/
theorem extractLsb'_statusWord (st : Status) {start : Nat} (h : 4 ≤ start) (len : Nat) :
    (statusWord st).extractLsb' start len = (0#24 ++ st.cause).extractLsb' (start - 4) len := by
  rw [statusWord, BitVec.extractLsb'_append_eq_of_le (by omega), BitVec.extractLsb'_append_eq_of_le (by omega),
    BitVec.extractLsb'_append_eq_of_le (by omega), BitVec.extractLsb'_append_eq_of_le (by omega)]
  simp only [Nat.sub_sub]

theorem statusWord_fields (st : Status) :
    (statusWord st).extractLsb' 4 4 = st.cause ∧ (statusWord st).extractLsb' 8 24 = 0#24 := by
  rw [extractLsb'_statusWord st (by decide), extractLsb'_statusWord st (by decide)]
  exact ⟨BitVec.extractLsb'_append_eq_right, BitVec.extractLsb'_append_eq_left⟩

theorem ctrlWord_flags (c : Ctrl) : (ctrlWord c).getLsbD 0 = c.ieDone ∧ (ctrlWord c).getLsbD 1 = c.ieErr := by
  simp only [ctrlWord, flagBit, BitVec.getLsbD_append]
  simp

theorem ctrlWord_reserved (c : Ctrl) : (ctrlWord c).extractLsb' 2 30 = 0#30 := by
  rw [ctrlWord, BitVec.extractLsb'_append_eq_of_le (by decide)]
  exact BitVec.extractLsb'_append_eq_left

theorem sizeWord_fields (d : Descriptor) :
    (sizeWord d).extractLsb' 0 16 = d.w ∧ (sizeWord d).extractLsb' 16 16 = d.h :=
  ⟨BitVec.extractLsb'_append_eq_right, BitVec.extractLsb'_append_eq_left⟩

theorem bandsWord_toNat (d : Descriptor) : (bandsWord d).toNat = d.z.toNat := by
  simp only [bandsWord, toNat_append_eq_add, BitVec.toNat_zero]
  omega

theorem dimWord_toNat (k : KDim) : (dimWord k).toNat = k.kw.toNat + 256 * k.kh.toNat := by
  simp only [dimWord, toNat_append_eq_add, BitVec.toNat_zero]
  omega

theorem capWord_toNat {p : Config.Params} (h : p.accW < 256) :
    (capWord p).toNat = p.accW + 16 * 256 + 15 * 65536 := by
  simp only [capWord, toNat_append_eq_add, BitVec.toNat_ofNat, Config.kMax, Config.coefW, Nat.mod_eq_of_lt h]
  omega

/-- Sign extension keeps a coefficient's value (R33, R110). -/
theorem coefWord_toInt (c : Coef) : (coefWord c).toInt = c.toInt :=
  BitVec.toInt_signExtend_of_le (by decide)

/-! ### What a written word reads back as (R202, R206, R110) -/

theorem sizeWord_withSize (d : Descriptor) (v : Word) : sizeWord (d.withSize v) = v :=
  halves_append v

/-- BANDS keeps the low half of the word (R28). -/
theorem bandsWord_withBands (d : Descriptor) (v : Word) : bandsWord (d.withBands v) = v &&& 0x0000FFFF#32 :=
  calc bandsWord (d.withBands v)
    _ = (v.extractLsb' 16 16 &&& 0#16) ++ (v.extractLsb' 0 16 &&& BitVec.allOnes 16) := by
      rw [BitVec.and_zero, BitVec.and_allOnes]; rfl
    _ = (v.extractLsb' 16 16 ++ v.extractLsb' 0 16) &&& (0#16 ++ BitVec.allOnes 16) := BitVec.and_append.symm
    _ = v &&& 0x0000FFFF#32 := congrArg (· &&& 0x0000FFFF#32) (halves_append v)

/-- A word is cut at the bounds of the fields of a DIM register (R32). -/
theorem dimFields_append (v : Word) :
    v.extractLsb' 12 20 ++ v.extractLsb' 8 4 ++ v.extractLsb' 4 4 ++ v.extractLsb' 0 4 = v := by
  rw [BitVec.extractLsb'_append_extractLsb'_eq_extractLsb' (rfl : 12 = 8 + 4),
    BitVec.extractLsb'_append_extractLsb'_eq_extractLsb' (rfl : 8 = 4 + 4),
    BitVec.extractLsb'_append_extractLsb'_eq_extractLsb' (rfl : 4 = 0 + 4)]
  exact BitVec.extractLsb'_eq_self

/-- DIM keeps KW and KH of the word (R32). -/
theorem dimWord_dimOfWord (v : Word) : dimWord (dimOfWord v) = v &&& 0x00000F0F#32 :=
  calc dimWord (dimOfWord v)
    _ = (v.extractLsb' 12 20 &&& 0#20) ++ (v.extractLsb' 8 4 &&& BitVec.allOnes 4) ++ (v.extractLsb' 4 4 &&& 0#4) ++
        (v.extractLsb' 0 4 &&& BitVec.allOnes 4) := by
      simp only [BitVec.and_zero, BitVec.and_allOnes]; rfl
    _ = (v.extractLsb' 12 20 ++ v.extractLsb' 8 4 ++ v.extractLsb' 4 4 ++ v.extractLsb' 0 4) &&&
        (0#20 ++ BitVec.allOnes 4 ++ 0#4 ++ BitVec.allOnes 4) := by
      simp only [BitVec.and_append]
    _ = v &&& 0x00000F0F#32 := congrArg (· &&& 0x00000F0F#32) (dimFields_append v)

/-- An entry keeps the low half of the word, which reads back sign-extended (R110). -/
theorem coefWord_set_self (bank : Vector Coef 256) (n : Fin 256) (v : Word) :
    coefWord (bank.set n (coefOfWord v))[n] = (v.setWidth 16).signExtend 32 := by
  rw [Fin.getElem_fin, Vector.getElem_set_self, BitVec.setWidth_eq_extractLsb' (by decide)]
  rfl

/-- The other entries of the bank stay. -/
theorem coefWord_set_of_ne (bank : Vector Coef 256) {n m : Fin 256} (h : m ≠ n) (c : Coef) :
    coefWord (bank.set n c)[m] = coefWord bank[m] :=
  congrArg coefWord (Vector.getElem_set_ne n.isLt m.isLt (Fin.val_ne_of_ne h.symm))

/-! ### Reads (R201) -/

/-- What a register reads as does not depend on the moves. -/
@[simp] theorem readReg_withMoves (s : State) (rest : List Move) (r : Reg) :
    readReg { s with moves := rest } r = readReg s r := by
  cases r <;> rfl

@[simp] theorem readOffset_regOffset (s : State) (r : Reg) : readOffset s (regOffset r) = readReg s r := by
  simp [readOffset]

@[simp] theorem readOffset_withMoves (s : State) (rest : List Move) (off : Nat) :
    readOffset { s with moves := rest } off = readOffset s off := by
  cases h : regAt off with
  | none => rw [readOffset_of_reserved h, readOffset_of_reserved h]
  | some r => rw [regOffset_of_regAt h, readOffset_regOffset, readOffset_regOffset, readReg_withMoves]

/-- R211: the other accesses. -/
theorem definedAccess_eq_false_iff {off size : Nat} :
    definedAccess off size = false ↔ size ≠ 4 ∨ off % 4 ≠ 0 ∨ 4096 ≤ off := by
  simp only [definedAccess, Bool.and_eq_false_iff, beq_eq_false_iff_ne, decide_eq_false_iff_not, Nat.not_lt, or_assoc]

theorem definedAccess_regOffset (r : Reg) : definedAccess (regOffset r) 4 = true :=
  definedAccess_word (regOffset_aligned r).1 (regOffset_aligned r).2

section Access

variable {s : State} {off size : Nat} {v : Word} {rest : List Move}

theorem step_read (move : s.moves = .rd off size :: rest) (hd : definedAccess off size = true) :
    step s = .next { s with rdata := readOffset s off, moves := rest } := by
  rw [step_cons move, perform, portRead_of_defined hd, readOffset_withMoves]

theorem step_read_undefined (move : s.moves = .rd off size :: rest) (hd : definedAccess off size = false) :
    step s = .refused .undefinedPortAccess := by
  rw [step_cons move]
  simp [perform, portRead, hd]

/-! ### Writes (R202 to R205, R208, R209) -/

theorem step_write_undefined (move : s.moves = .wr off size v :: rest) (hd : definedAccess off size = false) :
    step s = .refused .undefinedPortAccess := by
  rw [step_cons move]
  simp [perform, portWrite, hd]

/-- The step that writes at CMD's offset is the CMD write. -/
theorem step_write_cmd (move : s.moves = .wr (regOffset .cmd) 4 v :: rest) :
    step s = writeCmd v { s with moves := rest } :=
  (step_cons move).trans (portWrite_cmd v _)

/-- A CMD write of a word that is a command runs it (R205). -/
theorem writeCmd_of_command {w : Word} {i : Instr} (h : decode w = .command i) (s : State) :
    writeCmd w s = exec i s := by
  rw [writeCmd, h]

/-- The step that writes at another register's offset is the write of that register. -/
theorem step_write_reg {r : Reg} (notCmd : r ≠ .cmd) (move : s.moves = .wr (regOffset r) 4 v :: rest) :
    step s = .next (writeReg r v { s with moves := rest }) := by
  rw [step_cons move]
  simp [perform, portWrite, definedAccess_regOffset, writeOffset, notCmd]

theorem writeReg_of_busy {r : Reg} (hr : r ≠ .ctrl) (run : s.status.busy = true) : writeReg r v s = s := by
  rw [writeReg, if_neg hr, if_pos run]

theorem writeReg_of_not_busy {r : Reg} (hr : r ≠ .ctrl) (idle : s.status.busy = false) :
    writeReg r v s = writeUnlocked v s r := by
  simp [writeReg, hr, idle]

/-- While BUSY is 1 a write at any offset but CTRL's is dropped, be it at a register's offset or at a reserved one
(R203). -/
theorem portWrite_of_busy (run : s.status.busy = true) (hd : definedAccess off size = true)
    (notCtrl : regAt off ≠ some .ctrl) : portWrite off size v s = .next s := by
  rcases portWrite_cases off size v s with ⟨undefined, _⟩ | ⟨_, ⟨_, e⟩ | ⟨_, e⟩ | ⟨r, place, _, e⟩⟩
  · simp [hd] at undefined
  · exact e
  · exact e.trans (writeCmd_of_not_idle (.inl run) v)
  · have hr : r ≠ .ctrl := fun h => notCtrl (h ▸ place)
    rw [e, writeReg_of_busy hr run]

end Access

/-- A write to STATUS clears DONE, or does nothing (R208). -/
theorem writeStatus_cases (v : Word) (s : State) :
    (v.getLsbD 1 = true ∧ writeStatus v s = { s with status := { s.status with done := false } }) ∨
      (v.getLsbD 1 = false ∧ writeStatus v s = s) := by
  unfold writeStatus
  cases v.getLsbD 1 <;> simp

/-- A write at STATUS's offset clears DONE, or does nothing; during a run it does nothing (R203, R208). -/
theorem writeReg_status_cases (v : Word) (s : State) :
    (s.status.busy = false ∧ v.getLsbD 1 = true ∧
        writeReg .status v s = { s with status := { s.status with done := false } }) ∨
      ((s.status.busy = true ∨ v.getLsbD 1 = false) ∧ writeReg .status v s = s) := by
  rcases writeReg_cases .status v s with ⟨h, _⟩ | ⟨_, run, e⟩ | ⟨_, idle, e⟩
  · cases h
  · exact .inr ⟨.inl run, e⟩
  · rcases writeStatus_cases v s with ⟨hbit, e'⟩ | ⟨hbit, e'⟩
    · exact .inl ⟨idle, hbit, e.trans e'⟩
    · exact .inr ⟨.inr hbit, e.trans e'⟩

/-! ### The frame of a register write (R202, R203) -/

/-- What a write to register `r`, not CTRL, leaves unchanged. -/
structure WriteFrame (r : Reg) (s u : State) : Prop where
  reads : ∀ r', r' ≠ r → readReg u r' = readReg s r'
  ctrl : u.ctrl = s.ctrl
  status : u.status = s.status ∨ r = .status
  cmdl : u.cmdl = s.cmdl
  sameRun : SameRun s u
  rdata : u.rdata = s.rdata
  moves : u.moves = s.moves
  freeCount : u.freeCount = s.freeCount

theorem writeFrame_refl (r : Reg) (s : State) : WriteFrame r s s :=
  ⟨fun _ _ => rfl, rfl, .inl rfl, rfl, ⟨rfl, rfl, rfl, rfl, rfl⟩, rfl, rfl, rfl⟩

/-- Only the register STATUS reads STATUS. -/
theorem readReg_withStatus (s : State) (st : Status) {r : Reg} (h : r ≠ .status) :
    readReg { s with status := st } r = readReg s r := by
  cases r with
  | status => exact absurd rfl h
  | _ => rfl

/-- No two registers share a stored bit: two register names differ in the fields that they read and write, and
two entries of one bank are two elements of its vector. -/
theorem readReg_writeUnlocked_of_ne {r r' : Reg} (h : r' ≠ r) (v : Word) (s : State) :
    readReg (writeUnlocked v s r) r' = readReg s r' := by
  cases r with
  | status =>
    rcases writeStatus_cases v s with ⟨_, e⟩ | ⟨_, e⟩ <;> rw [writeUnlocked, e]
    exact readReg_withStatus s _ h
  | kaCoef n =>
    cases r' with
    | kaCoef m => exact coefWord_set_of_ne s.kaCoef (fun e => h (congrArg Reg.kaCoef e)) _
    | _ => rfl
  | kbCoef n =>
    cases r' with
    | kbCoef m => exact coefWord_set_of_ne s.kbCoef (fun e => h (congrArg Reg.kbCoef e)) _
    | _ => rfl
  | _ => cases r' <;> trivial

theorem writeUnlocked_frame (v : Word) (s : State) (r : Reg) : WriteFrame r s (writeUnlocked v s r) := by
  have reads : ∀ r', r' ≠ r → readReg (writeUnlocked v s r) r' = readReg s r' :=
    fun _ h => readReg_writeUnlocked_of_ne h v s
  have sameRun : SameRun s (writeUnlocked v s r) := writeUnlocked_sameRun v s r
  cases r with
  | status =>
    rcases writeStatus_cases v s with ⟨_, e⟩ | ⟨_, e⟩ <;> rw [writeUnlocked, e] at reads sameRun ⊢
    · exact ⟨reads, rfl, .inr rfl, rfl, sameRun, rfl, rfl, rfl⟩
    · exact writeFrame_refl .status s
  | _ => exact ⟨reads, rfl, .inl rfl, rfl, sameRun, rfl, rfl, rfl⟩

theorem writeReg_frame {r : Reg} (hr : r ≠ .ctrl) (v : Word) (s : State) : WriteFrame r s (writeReg r v s) := by
  rcases writeReg_cases r v s with ⟨h, _⟩ | ⟨_, _, e⟩ | ⟨_, _, e⟩
  · exact absurd h hr
  · rw [e]
    exact writeFrame_refl r s
  · rw [e]
    exact writeUnlocked_frame v s r

end Sys2Proof.Machine
end

section
/-! Obligations O8, O9, O35, O37 to O41, O44 and O45: the operations of the host at the register port. -/

namespace Sys2Proof.Machine

/-- Settles O39: the step is the port's read, and the rest is the format of each register word. -/
theorem registerReadFormats : Obligations.RegisterReadFormats := by
  unfold Obligations.RegisterReadFormats
  intro s
  have hread (r : Reg) (rest : List Move) (move : s.moves = .rd (regOffset r) 4 :: rest) :
      step s = .next { s with rdata := readReg s r, moves := rest } := by
    rw [step_read move (definedAccess_regOffset r), readOffset_regOffset]
  obtain ⟨hbusy, hdone, herr, hreserved⟩ := statusWord_flags s.status
  obtain ⟨hcause, hupper⟩ := statusWord_fields s.status
  obtain ⟨hieDone, hieErr⟩ := ctrlWord_flags s.ctrl
  exact ⟨hread, ⟨hbusy, hdone, herr, hreserved, hcause, hupper⟩, ⟨hieDone, hieErr, ctrlWord_reserved s.ctrl⟩, rfl,
    sizeWord_fields s.src, sizeWord_fields s.dst, bandsWord_toNat s.src, bandsWord_toNat s.dst, dimWord_toNat s.kaDim,
    dimWord_toNat s.kbDim, fun n => coefWord_toInt s.kaCoef[n], fun n => coefWord_toInt s.kbCoef[n], capWord_toNat⟩

/-- Settles O40, register by register, from what each format keeps of the written word. -/
theorem readAfterRegisterWrite : Obligations.ReadAfterRegisterWrite := by
  unfold Obligations.ReadAfterRegisterWrite
  intro s v idle
  have hwrite {r : Reg} (hr : r ≠ .ctrl) : writeReg r v s = writeUnlocked v s r := writeReg_of_not_busy hr idle
  refine ⟨fun r rest notCmd move => step_write_reg notCmd move, readOffset_regOffset, ?_, ?_, ?_, fun n => ?_,
    fun n => ?_, ?_⟩
  · simp [hwrite, writeUnlocked, readReg, sizeWord_withSize]
  · simp [hwrite, writeUnlocked, readReg, bandsWord_withBands]
  · simp [hwrite, writeUnlocked, readReg, dimWord_dimOfWord]
  · rw [hwrite (by simp)]
    exact coefWord_set_self s.kaCoef n v
  · rw [hwrite (by simp)]
    exact coefWord_set_self s.kbCoef n v
  · simp [hwrite, writeUnlocked]

/-- Settles O41: the step is the register's write, and both statements are its frame. -/
theorem registerWriteFrame : Obligations.RegisterWriteFrame := by
  unfold Obligations.RegisterWriteFrame
  constructor
  · intro s r v rest notCtrl notCmd move
    obtain ⟨reads, ctrl, status, cmdl, ⟨params, seq, ibuf, mem, hazard⟩, rdata, moves, freeCount⟩ :=
      writeReg_frame notCtrl v { s with moves := rest }
    refine ⟨_, step_write_reg notCmd move, fun r' h => ?_, params, ctrl, status, cmdl, ibuf, seq, mem, hazard, rdata,
      moves, freeCount⟩
    rw [readOffset_regOffset, readOffset_regOffset, reads r' h, readReg_withMoves]
  · intro r v s notCtrl
    obtain ⟨reads, ctrl, status, cmdl, ⟨params, seq, ibuf, mem, hazard⟩, rdata, moves, freeCount⟩ :=
      writeReg_frame notCtrl v s
    exact ⟨reads, params, ctrl, status, cmdl, ibuf, seq, mem, hazard, rdata, moves, freeCount⟩

/-- Settles O8: the step is the CMD write, and withFetchWord puts that write first. -/
theorem stepRunsDecodedCommand : Obligations.StepRunsDecodedCommand := by
  unfold Obligations.StepRunsDecodedCommand
  have hstep (s : State) (w : Word) (rest : List Move) (i : Instr) (move : s.moves = .wr 0x014 4 w :: rest)
      (hdecode : decode w = .command i) : step s = exec i { s with moves := rest } :=
    (step_write_cmd move).trans (writeCmd_of_command hdecode _)
  refine ⟨hstep, fun s n i hn hdecode => ?_⟩
  rw [← tableWord_of_lt hn] at hdecode
  exact hstep (s.withFetchWord 32 n) (tableWord 32 n) s.moves i rfl hdecode

/-- Settles O9: the mask test says that the word is in the decoder's first row, whose command does nothing. -/
theorem nopChangesNothing : Obligations.NopChangesNothing := by
  unfold Obligations.NopChangesNothing
  have hnop (w : Word) : w &&& 0xFFFFC00F#32 = 0x00000000#32 ↔ decode w = .command .nop :=
    (and_opMask_eq_iff w 0).trans decode_eq_nop_iff.symm
  refine ⟨hnop, fun s => rfl, fun s w rest move hw => ?_, fun w hw => decode_of_illegalFields (.inl hw)⟩
  exact (step_write_cmd move).trans (writeCmd_of_command ((hnop w).1 hw) _)

/-- Settles O35: the two cases of a CTRL write, in the step that makes it. -/
theorem ctrlWriteAndSoftReset : Obligations.CtrlWriteAndSoftReset := by
  unfold Obligations.CtrlWriteAndSoftReset
  intro s v rest move
  have hstep : step s = .next (writeCtrl v { s with moves := rest }) := step_write_reg (r := .ctrl) (by decide) move
  rw [hstep]
  rcases writeCtrl_cases v { s with moves := rest } with ⟨srst, idle, e⟩ | ⟨h, e⟩ <;> rw [e]
  · exact ⟨fun _ => rfl, fun h => absurd h (by simpa [srst] using idle)⟩
  · exact ⟨fun ⟨srst, idle⟩ => absurd h (by simpa [srst] using idle), fun _ => rfl⟩

/-- Settles O37: the step is the STATUS write, which the BUSY lock drops during a run. -/
theorem statusWrite : Obligations.StatusWrite := by
  unfold Obligations.StatusWrite
  intro s v rest move
  have hstep : step s = .next (writeReg .status v { s with moves := rest }) := step_write_reg (by decide) move
  rw [hstep]
  rcases writeReg_status_cases v { s with moves := rest } with ⟨idle, hbit, e⟩ | ⟨h, e⟩ <;> rw [e]
  · exact ⟨fun _ _ => rfl, fun h => absurd h (by simpa [hbit] using idle)⟩
  · exact ⟨fun idle hbit => absurd h (by simpa [hbit] using idle), fun _ => rfl⟩

/-- Settles O38: CTRL's offset is the only one at which the BUSY lock lets a write through. -/
theorem busyLock : Obligations.BusyLock := by
  unfold Obligations.BusyLock
  intro s off v rest run h4 hoff notCtrl move
  have hplace : regAt off ≠ some .ctrl := fun h => notCtrl (regOffset_of_regAt h)
  exact (step_cons move).trans
    (portWrite_of_busy (s := { s with moves := rest }) run (definedAccess_word h4 hoff) hplace)

/-- Settles O44. -/
theorem undefinedAccessesRefused : Obligations.UndefinedAccessesRefused := by
  unfold Obligations.UndefinedAccessesRefused
  intro s off size rest h
  have hd : definedAccess off size = false := definedAccess_eq_false_iff.2 h
  exact ⟨fun move => step_read_undefined move hd, fun v move => step_write_undefined move hd⟩

/-- Settles O45. -/
theorem registerReadChangesNothing : Obligations.RegisterReadChangesNothing := by
  unfold Obligations.RegisterReadChangesNothing
  intro s off rest h4 hoff move
  exact step_read move (definedAccess_word h4 hoff)

end Sys2Proof.Machine
end

section
/-! Obligations O11, O13 to O16, O28 and O46: acceptance and refusal at issue, the sticky FAULT state, and the interrupt
output. -/

namespace Sys2Proof.Machine

/-! ### Acceptance (R229) -/

/-- What a launch latches (R229), with the notes on R88 written out. -/
theorem latchCommand_eq {s : State} {c : BitVec 14} {t : ElemType} (type : cmdType { s with cmdl := c } = some t) :
    latchCommand c (clearDone s) =
      { s with
        status := { s.status with busy := true, done := false }
        cmdl := c
        hazard := launchHazard s t } := by
  have hazard : (latchCommand c (clearDone s)).hazard = launchHazard s t := latchCommand_hazard type
  rw [← hazard]
  rfl

/-- Over a raster that is not empty a command that passes its checks begins its first pass (R229). -/
theorem Accepts.exec_of_passEmpty_eq_false {i : Instr} {s : State} {t : ElemType} (h : Accepts i s t) (idle : s.Idle)
    (nonempty : passEmpty s (firstPass i) = false) : exec i s = .next (acceptedAs i (firstPass i) t s) := by
  rw [h.exec_eq idle]
  rcases accept_cases (p := firstPass i) h.type h.common with ⟨_, e⟩ | ⟨empty, _⟩
  · rw [e, latchCommand_eq h.type]
    rfl
  · cases nonempty.symm.trans empty

/-- Settles O11: CONV's first pass is SINGLE, over the bands of DST. -/
theorem convAccepted : Obligations.ConvAccepted := by
  unfold Obligations.ConvAccepted
  intro s e k r t idle type common columns rows bands
  have h : Accepts (.conv e k r) s t := ⟨type, common⟩
  exact h.exec_of_passEmpty_eq_false idle (passEmpty_eq_false.2 ⟨columns, rows, bands⟩)

/-- Settles O14: CONVSEP's first pass is SEP1, over the bands of SRC. -/
theorem convsepAccepted : Obligations.ConvsepAccepted := by
  unfold Obligations.ConvsepAccepted
  intro s e r t idle type common kernels fits columns rows bands
  have h : Accepts (.convsep e r) s t := ⟨type, common, kernels, fits⟩
  exact h.exec_of_passEmpty_eq_false idle (passEmpty_eq_false.2 ⟨columns, rows, bands⟩)

/-! ### Refusal: the first failing check (R228, R230) -/

/-- In IDLE a CONVSEP whose checks give a cause is refused with it (R205, R230). -/
theorem exec_convsep_of_violation {s : State} (idle : s.Idle) {e : EType} {c : Cause} (h : checkConvsep e s = some c)
    (r : Nat) : exec (.convsep e r) s = .next (refusedWith (causeCode c) s) := by
  rw [exec, execConvsep, h, issue_of_violation idle]

/-- A reserved ETYPE names no element type (R103, R221). -/
theorem checkConv_of_reserved {e : EType} (h : e = .reserved3 ∨ e = .reserved7) (s : State) :
    checkConv e s = some .etype := by
  rcases h with rfl | rfl <;> rfl

section Checks

variable {s : State} {e : EType} {t : ElemType} (type : e.elem? = some t)
include type

/-- WIDTH is checked first of a legal element type (R222). -/
theorem checkConv_of_width (h : s.params.accW ≤ elemBits t) : checkConv e s = some .width := by
  simp [checkConv, type, widthViolated, h]

/-- SHAPE is checked next (R223). -/
theorem checkConv_of_shape (width : elemBits t < s.params.accW) (h : s.src.w ≠ s.dst.w ∨ s.src.h ≠ s.dst.h) :
    checkConv e s = some .shape := by
  simp [checkConv, type, widthViolated, Nat.not_le.2 width, shapeViolated, h]

/-- BANDS is the last check that the two commands share (R224). -/
theorem checkConv_of_bands (width : elemBits t < s.params.accW) (shapeW : s.src.w = s.dst.w)
    (shapeH : s.src.h = s.dst.h) (h : s.src.z.toNat < s.dst.z.toNat) : checkConv e s = some .bands := by
  simp [checkConv, type, widthViolated, Nat.not_le.2 width, shapeViolated, shapeW, shapeH, bandsViolated, h]

/-- NOT_1D is checked after the shared checks (R225). -/
theorem checkConvsep_of_not1d (common : CommonPreconditions s t) (h : ¬ Kernels1D s) :
    checkConvsep e s = some .not1d := by
  have hconv : checkConv e s = none := (checkConv_eq_none e s).2 ⟨t, type, common⟩
  have hnot1d : not1dViolated s = true := eq_true_of_ne_false (mt not1dViolated_eq_false.1 h)
  simp [checkConvsep, hconv, hnot1d]

/-- CAPACITY is checked last (R232). -/
theorem checkConvsep_of_capacity (common : CommonPreconditions s t) (kernels : Kernels1D s) (h : ¬ FitsIbuf s) :
    checkConvsep e s = some .capacity := by
  have hconv : checkConv e s = none := (checkConv_eq_none e s).2 ⟨t, type, common⟩
  have hcapacity : capacityViolated s = true := eq_true_of_ne_false (mt capacityViolated_eq_false.1 h)
  simp [checkConvsep, hconv, not1dViolated_eq_false.2 kernels, hcapacity]

end Checks

/-- A cause that CONV is refused with is CONVSEP's too (R228). -/
theorem checkConvsep_of_checkConv {s : State} {e : EType} {c : Cause} (h : checkConv e s = some c) :
    checkConvsep e s = some c := by
  simp [checkConvsep, h]

/-- Settles O13, check by check. -/
theorem convRefusedInOrder : Obligations.ConvRefusedInOrder := by
  unfold Obligations.ConvRefusedInOrder
  intro s k r idle
  have refuse {e : EType} {c : Cause} (h : checkConv e s = some c) :
      exec (.conv e k r) s = .next (refusedWith (causeCode c) s) := exec_conv_of_violation idle h k r
  refine ⟨fun e he => refuse (checkConv_of_reserved he s), fun e t type => ⟨fun h => ?_, fun width h => ?_,
    fun width shapeW shapeH h => ?_⟩⟩
  · exact refuse (checkConv_of_width type h)
  · exact refuse (checkConv_of_shape type width h)
  · exact refuse (checkConv_of_bands type width shapeW shapeH h)

/-- Settles O15: the checks of CONV, then its own two. -/
theorem convsepRefusedInOrder : Obligations.ConvsepRefusedInOrder := by
  unfold Obligations.ConvsepRefusedInOrder
  intro s r idle
  have refuse {e : EType} {c : Cause} (h : checkConvsep e s = some c) :
      exec (.convsep e r) s = .next (refusedWith (causeCode c) s) := exec_convsep_of_violation idle h r
  have refuseShared {e : EType} {c : Cause} (h : checkConv e s = some c) :
      exec (.convsep e r) s = .next (refusedWith (causeCode c) s) := refuse (checkConvsep_of_checkConv h)
  refine ⟨fun e he => refuseShared (checkConv_of_reserved he s), fun e t type => ⟨fun h => ?_, fun width h => ?_,
    fun width shapeW shapeH h => ?_, fun common h => ?_, fun common kernels h => ?_⟩⟩
  · exact refuseShared (checkConv_of_width type h)
  · exact refuseShared (checkConv_of_shape type width h)
  · exact refuseShared (checkConv_of_bands type width shapeW shapeH h)
  · exact refuse (checkConvsep_of_not1d type common h)
  · exact refuse (checkConvsep_of_capacity type common kernels h)

/-! ### The frame of an issue (R231) -/

/-- Every command answers, and does what a CMD write can do. -/
theorem exec_effect (i : Instr) (s : State) : ∃ u, exec i s = .next u ∧ CommandEffect s u := by
  cases i with
  | nop => exact ⟨s, rfl, .ignored⟩
  | conv e k r => exact ⟨_, rfl, issue_conv_effect e k r s⟩
  | convsep e r => exact ⟨_, rfl, issue_convsep_effect e r s⟩

/-- Settles O16, effect by effect; a command that completes at once releases an IBUF that holds no entry. -/
theorem issueFrame : Obligations.IssueFrame := by
  unfold Obligations.IssueFrame
  intro i s hs hibuf
  obtain ⟨u, hexec, effect⟩ := exec_effect i s
  refine ⟨u, hexec, ?_⟩
  cases effect with
  | ignored => exact ⟨⟨rfl, rfl, rfl, rfl, rfl, rfl, rfl, rfl, rfl⟩, rfl, rfl, rfl, rfl, rfl, .inr rfl⟩
  | refused c idle => exact ⟨⟨rfl, rfl, rfl, rfl, rfl, rfl, rfl, rfl, rfl⟩, rfl, rfl, rfl, rfl, rfl, .inl rfl⟩
  | accepted i p t idle type common separable =>
    rcases accept_cases (p := p) type common with ⟨_, e⟩ | ⟨_, e⟩ <;> rw [e]
    · exact ⟨⟨rfl, rfl, rfl, rfl, rfl, rfl, rfl, rfl, rfl⟩, rfl, rfl, rfl, rfl, rfl, .inr rfl⟩
    · have released : s.ibuf = [] := hibuf.2.1 (hs.seq_eq_none idle.1)
      exact ⟨⟨rfl, rfl, rfl, rfl, rfl, rfl, rfl, rfl, rfl⟩, rfl, released.symm, rfl, rfl, rfl, .inr rfl⟩

/-! ### FAULT (R233) -/

/-- The two fields of STATUS that a violation sets and only a reset clears (R230, R233). -/
structure SameFault (s u : State) : Prop where
  err : u.status.err = s.status.err
  cause : u.status.cause = s.status.cause

/-- Of the register writes other than a CMD write, only one to CTRL with SRST set can reach ERR and CAUSE (R208,
R209). -/
theorem writeReg_sameFault {r : Reg} {v : Word} (noReset : r = .ctrl → v.getLsbD 31 = false) (s : State) :
    SameFault s (writeReg r v s) := by
  rcases writeReg_cases r v s with ⟨hr, e⟩ | ⟨_, _, e⟩ | ⟨_, _, e⟩ <;> rw [e]
  · rcases writeCtrl_cases v s with ⟨srst, _⟩ | ⟨_, e⟩
    · cases srst.symm.trans (noReset hr)
    · rw [e]
      exact ⟨rfl, rfl⟩
  · exact ⟨rfl, rfl⟩
  · rcases writeUnlocked_status v s r with e | e <;> exact ⟨by rw [e], by rw [e]⟩

/-- A register write that answers is of 32 bits (R211). -/
theorem size_of_step_write {s u : State} {off size : Nat} {v : Word} {rest : List Move}
    (move : s.moves = .wr off size v :: rest) (h : step s = .next u) : size = 4 := by
  by_contra hsize
  cases h.symm.trans (step_write_undefined move (definedAccess_eq_false_iff.2 (.inl hsize)))

/-- In FAULT a CMD write is ignored (R30, R233). -/
theorem CommandEffect.eq_of_err {s u : State} (h : CommandEffect s u) (fault : s.status.err = true) : u = s := by
  cases h with
  | ignored => rfl
  | refused c idle => cases fault.symm.trans idle.2
  | accepted i p t idle type common separable => cases fault.symm.trans idle.2

/-- ERR and BUSY are not both 1 (R31). -/
theorem State.StatusOk.busy_of_err {s : State} (h : s.StatusOk) (fault : s.status.err = true) :
    s.status.busy = false := by
  obtain ⟨hbusy, _⟩ := Status.wf_iff.1 h.1
  simpa [fault] using hbusy

/-- In FAULT only a reset reaches ERR and CAUSE (R233). -/
theorem sameFault_of_step {s u : State} (hs : s.StatusOk) (fault : s.status.err = true) (h : step s = .next u)
    (noHardwareReset : ∀ rest, s.moves ≠ .hardwareReset :: rest)
    (noSoftReset : ∀ v rest, v.getLsbD 31 = true → s.moves ≠ .wr 0x00C 4 v :: rest) : SameFault s u := by
  cases step_effect h with
  | passed w rest => exact ⟨rfl, rfl⟩
  | engine m rest =>
    rw [engineStep_of_not_busy (s := { s with moves := rest }) (hs.busy_of_err fault)]
    exact ⟨rfl, rfl⟩
  | register off size r v rest move place notCmd =>
    have noReset : r = .ctrl → v.getLsbD 31 = false := by
      rintro rfl
      have hsize : size = 4 := size_of_step_write move h
      have hoff : off = 0x00C := regOffset_of_regAt place
      subst hsize hoff
      exact eq_false_of_ne_true fun srst => noSoftReset v rest srst move
    obtain ⟨err, cause⟩ := writeReg_sameFault noReset { s with moves := rest }
    exact ⟨err, cause⟩
  | command rest _ effect =>
    rw [effect.eq_of_err fault]
    exact ⟨rfl, rfl⟩
  | memory a b rest move inside =>
    rw [hostMemWrite_eq]
    exact ⟨rfl, rfl⟩
  | reset rest move => exact absurd move (noHardwareReset rest)

/-- Settles O28: ERR and CAUSE stay, BUSY is 0 since every step keeps STATUS consistent, and outside a run only a host
write reaches raster memory. -/
theorem faultIsSticky : Obligations.FaultIsSticky := by
  unfold Obligations.FaultIsSticky
  intro s u hs fault h noHardwareReset noSoftReset
  obtain ⟨err, cause⟩ := sameFault_of_step hs fault h noHardwareReset noSoftReset
  have fault' : u.status.err = true := err.trans fault
  have effect := step_effect h
  exact ⟨fault', (effect.statusOk hs).busy_of_err fault', cause, effect.mem_eq_of_not_busy (hs.busy_of_err fault)⟩

/-! ### The interrupt output (R234) -/

/-- Settles O46: in each case DONE and ERR are known. -/
theorem interruptOutput : Obligations.InterruptOutput := by
  unfold Obligations.InterruptOutput
  refine ⟨rfl, fun s u _ err completed => ?_, fun s c => ?_, fun s hs run => ?_⟩
  · simp [irq, completed.status, err]
  · simp [irq, refusedWith]
  · obtain ⟨hbusyErr, hbusyDone, _⟩ := Status.wf_iff.1 hs.1
    have err : s.status.err = false := by simpa [run] using hbusyErr
    have done : s.status.done = false := by simpa [run] using hbusyDone
    simp [irq, err, done]

end Sys2Proof.Machine
end

section
/-! Obligations O36 and O58: the state after a hardware reset, and the distinct samples of a dense layout. -/

namespace Sys2Proof.Machine

/-! ### Hardware reset (R250, R251) -/

/-- The reset input leaves the model's fields for the host as they are. -/
theorem stopRun_hostFields (s : State) : (stopRun s).rdata = s.rdata ∧ (stopRun s).moves = s.moves := by
  rcases stopRun_cases s with ⟨_, t, _, e⟩ | ⟨_, e⟩ <;> simp [e]

theorem step_hardwareReset {s : State} {rest : List Move} (move : s.moves = .hardwareReset :: rest) :
    step s = .next (hardwareReset { s with moves := rest }) :=
  step_cons move

/-- With no command running the reset input reaches no byte of raster memory (R250). -/
theorem hardwareReset_mem_of_not_busy {s : State} (idle : s.status.busy = false) :
    (hardwareReset s).mem = s.mem := by
  rw [hardwareReset_mem]
  rcases stopRun_cases s with ⟨run, _⟩ | ⟨_, e⟩
  · cases idle.symm.trans run
  · rw [e]

/-- Settles O36: the registers are given values whatever the state was, and only the stop of a run writes raster
memory. -/
theorem hardwareResetState : Obligations.HardwareResetState := by
  unfold Obligations.HardwareResetState
  intro s rest hwf move
  obtain ⟨rdata, moves⟩ := stopRun_hostFields { s with moves := rest }
  exact ⟨_, step_hardwareReset move, stopRun_params _, moves, rdata, rfl, rfl, rfl, rfl, rfl, rfl, rfl, rfl, rfl,
    fun idle => hardwareReset_mem_of_not_busy (s := { s with moves := rest }) idle,
    fun _ type => hardwareReset_unchangedOutside (s := { s with moves := rest }) hwf type⟩

/-! ### Addresses in windows that do not overlap (R258 item 2) -/

/-- The addresses in the list are distinct and lie in the `width` bytes from `start` upward. -/
structure InWindow (start width : Nat) (l : List Nat) : Prop where
  nodup : l.Nodup
  bounds : ∀ a ∈ l, start ≤ a ∧ a < start + width

theorem InWindow.mono {start width width' : Nat} {l : List Nat} (h : InWindow start width l) (le : width ≤ width') :
    InWindow start width' l where
  nodup := h.nodup
  bounds a ha := by
    obtain ⟨hlo, hhi⟩ := h.bounds a ha
    exact ⟨hlo, by omega⟩

/-- Step `i` of `n` equal steps ends where the last of them does, or before. -/
theorem mul_add_le_mul_of_lt {i n : Nat} (h : i < n) (stride : Nat) : i * stride + stride ≤ n * stride :=
  Nat.succ_mul i stride ▸ Nat.mul_le_mul_right stride h

/-- Windows one stride apart and one stride wide are disjoint, and together they fill the window of them all. -/
theorem InWindow.flatMap_range {start stride n : Nat} {f : Nat → List Nat}
    (h : ∀ i < n, InWindow (start + i * stride) stride (f i)) :
    InWindow start (n * stride) ((List.range n).flatMap f) where
  nodup := by
    refine List.nodup_flatMap.2 ⟨fun i hi => (h i (List.mem_range.1 hi)).nodup, ?_⟩
    refine List.pairwise_lt_range.imp_of_mem fun {i j} hi hj hij a hai haj => ?_
    obtain ⟨_, hhi⟩ := (h i (List.mem_range.1 hi)).bounds a hai
    obtain ⟨hlo, _⟩ := (h j (List.mem_range.1 hj)).bounds a haj
    have hstep := mul_add_le_mul_of_lt hij stride
    omega
  bounds a ha := by
    obtain ⟨i, hi, hai⟩ := List.mem_flatMap.1 ha
    have hin : i < n := List.mem_range.1 hi
    obtain ⟨hlo, hhi⟩ := (h i hin).bounds a hai
    have hstep := mul_add_le_mul_of_lt hin stride
    omega

/-- An access that ends before 2^32 does not wrap: its bytes are the ones from its address upward (R73). -/
theorem accessBytes_wrapAddr_inWindow {a n : Nat} (h : a + n ≤ memSize) :
    InWindow a n (accessBytes (wrapAddr a) n) := by
  have bytes : accessBytes (wrapAddr a) n = List.range' a n := by
    rw [accessBytes, List.range'_eq_map_range]
    refine List.map_congr_left fun b hb => ?_
    have hbn : b < n := List.mem_range.1 hb
    rw [wrapAddr_add_left, wrapAddr_of_lt (by omega)]
  rw [bytes]
  exact ⟨List.nodup_range', fun _ => List.mem_range'_1.1⟩

/-- In a dense layout the samples of a row lie side by side, the rows one row stride apart, and the bands one band
stride apart, all before 2^32. -/
theorem DenseLayout.footprint_inWindow {d : Descriptor} {t : ElemType} (dense : DenseLayout d t) :
    InWindow d.base.toNat (d.z.toNat * d.bstride.toNat) (footprint d t d.z.toNat) := by
  obtain ⟨rowFits, bandFits, rasterFits⟩ := dense
  refine InWindow.flatMap_range fun z hz =>
    (InWindow.flatMap_range fun y hy =>
      (InWindow.flatMap_range fun x hx => accessBytes_wrapAddr_inWindow ?_).mono rowFits).mono bandFits
  have band := mul_add_le_mul_of_lt hz d.bstride.toNat
  have row := mul_add_le_mul_of_lt hy d.rstride.toNat
  have sample := mul_add_le_mul_of_lt hx (elemBytes t)
  omega

/-- Settles O58: each sample, row and band has its own window of raster memory. -/
theorem denseLayoutSeparatesSamples : Obligations.DenseLayoutSeparatesSamples := by
  unfold Obligations.DenseLayoutSeparatesSamples
  exact fun _ _ dense => (DenseLayout.footprint_inWindow dense).nodup

end Sys2Proof.Machine
end
